-- ==== Sys2Proof/Word.lean ====
section
/-! DEFINITION. The word types of HSNR2F32: the 16-bit input word, the 32-bit output word, the 11-bit source mantissa, and
the input port as a row of 16 pins (rules R5, R6, R12, R23, R89). -/

namespace Sys2Proof

/-- The input word `h`, a SourceValue (R12, R31). -/
abbrev Word16 := BitVec 16

/-- The output word `F`, a TargetValue: the raw binary32 pattern (R12, R39). -/
abbrev Word32 := BitVec 32

/-- The source mantissa field `m`, bits 10..0 of the input word (R31). -/
abbrev Mantissa := BitVec 11

/-- What one pin of the input port can carry. `low` and `high` are the two values the spec gives a bit.
`unknown` and `floating` are the X and Z of R89: inputs the source does not define. -/
inductive Pin where
  | low
  | high
  | unknown
  | floating
deriving DecidableEq, Repr

/-- The input port `hsnr_in[15:0]` (R12). Pin `i` carries bit `i` of the SourceValue, weight 2^i (R23). -/
structure HsnrPort where
  pins : Vector Pin 16
deriving DecidableEq, Repr

end Sys2Proof
end

