-- ==== Sys2Proof/Config.lean ====
section
/-! DEFINITION. What the spec leaves to the implementation: the propagation delay T_PD (R94, decision D17). The block has no
other parameter (R5). -/

namespace Sys2Proof

/-- `T_PD`, the time from a stable input to a settled output, in a unit the spec does not fix (D17: OPEN, "No rule
depends on its value"). It has no body, so no proof can see a value of it. Log entry 8. -/
opaque Config.tPD : Nat

end Sys2Proof
end

