-- ==== Sys2Proof/Syntax.lean ====
section
/-! DEFINITION. The instructions of HSNR2F32. The block has one operation, DECODE (R2, R43); the opcode table splits its
65536 input words into 33 rows by input class (R36), and `Instr` has one constructor per row. -/

namespace Sys2Proof

/-- The five classes of input word (R36). -/
inductive InputClass where
  | zero
  | subPos
  | subNeg
  | normPos
  | normNeg
deriving DecidableEq, Repr

/-- One constructor per row of spec/opcode_table.json, in the table's order. The argument is the row's mantissa
field `m`; the exponent `e` and the sign `s` of a row are fixed by the row (R31, R36). -/
inductive Instr where
  /-- DECODE.ZERO, the word 0x0000 (R58). -/
  | zero
  /-- DECODE.SUB_POS, `{0000, 0, m}` with `m != 0` (R59). -/
  | subPos (m : Mantissa)
  /-- DECODE.SUB_NEG, `{0000, 1, m}` (R60). -/
  | subNeg (m : Mantissa)
  /-- DECODE.NORM_POS.E1, `{0001, 0, m}` (R61). -/
  | normPosE1 (m : Mantissa)
  /-- DECODE.NORM_POS.E2, `{0010, 0, m}` (R61). -/
  | normPosE2 (m : Mantissa)
  /-- DECODE.NORM_POS.E3, `{0011, 0, m}` (R61). -/
  | normPosE3 (m : Mantissa)
  /-- DECODE.NORM_POS.E4, `{0100, 0, m}` (R61). -/
  | normPosE4 (m : Mantissa)
  /-- DECODE.NORM_POS.E5, `{0101, 0, m}` (R61). -/
  | normPosE5 (m : Mantissa)
  /-- DECODE.NORM_POS.E6, `{0110, 0, m}` (R61). -/
  | normPosE6 (m : Mantissa)
  /-- DECODE.NORM_POS.E7, `{0111, 0, m}` (R61). -/
  | normPosE7 (m : Mantissa)
  /-- DECODE.NORM_POS.E8, `{1000, 0, m}` (R61). -/
  | normPosE8 (m : Mantissa)
  /-- DECODE.NORM_POS.E9, `{1001, 0, m}` (R61). -/
  | normPosE9 (m : Mantissa)
  /-- DECODE.NORM_POS.E10, `{1010, 0, m}` (R61). -/
  | normPosE10 (m : Mantissa)
  /-- DECODE.NORM_POS.E11, `{1011, 0, m}` (R61). -/
  | normPosE11 (m : Mantissa)
  /-- DECODE.NORM_POS.E12, `{1100, 0, m}` (R61). -/
  | normPosE12 (m : Mantissa)
  /-- DECODE.NORM_POS.E13, `{1101, 0, m}` (R61). -/
  | normPosE13 (m : Mantissa)
  /-- DECODE.NORM_POS.E14, `{1110, 0, m}` (R61). -/
  | normPosE14 (m : Mantissa)
  /-- DECODE.NORM_POS.E15, `{1111, 0, m}` (R61). -/
  | normPosE15 (m : Mantissa)
  /-- DECODE.NORM_NEG.E1, `{0001, 1, m}` (R62). -/
  | normNegE1 (m : Mantissa)
  /-- DECODE.NORM_NEG.E2, `{0010, 1, m}` (R62). -/
  | normNegE2 (m : Mantissa)
  /-- DECODE.NORM_NEG.E3, `{0011, 1, m}` (R62). -/
  | normNegE3 (m : Mantissa)
  /-- DECODE.NORM_NEG.E4, `{0100, 1, m}` (R62). -/
  | normNegE4 (m : Mantissa)
  /-- DECODE.NORM_NEG.E5, `{0101, 1, m}` (R62). -/
  | normNegE5 (m : Mantissa)
  /-- DECODE.NORM_NEG.E6, `{0110, 1, m}` (R62). -/
  | normNegE6 (m : Mantissa)
  /-- DECODE.NORM_NEG.E7, `{0111, 1, m}` (R62). -/
  | normNegE7 (m : Mantissa)
  /-- DECODE.NORM_NEG.E8, `{1000, 1, m}` (R62). -/
  | normNegE8 (m : Mantissa)
  /-- DECODE.NORM_NEG.E9, `{1001, 1, m}` (R62). -/
  | normNegE9 (m : Mantissa)
  /-- DECODE.NORM_NEG.E10, `{1010, 1, m}` (R62). -/
  | normNegE10 (m : Mantissa)
  /-- DECODE.NORM_NEG.E11, `{1011, 1, m}` (R62). -/
  | normNegE11 (m : Mantissa)
  /-- DECODE.NORM_NEG.E12, `{1100, 1, m}` (R62). -/
  | normNegE12 (m : Mantissa)
  /-- DECODE.NORM_NEG.E13, `{1101, 1, m}` (R62). -/
  | normNegE13 (m : Mantissa)
  /-- DECODE.NORM_NEG.E14, `{1110, 1, m}` (R62). -/
  | normNegE14 (m : Mantissa)
  /-- DECODE.NORM_NEG.E15, `{1111, 1, m}` (R62). -/
  | normNegE15 (m : Mantissa)
deriving DecidableEq, Repr

end Sys2Proof
end

