-- ==== Sys2Proof/WellFormed.lean ====
section
/-! DEFINITION. Which instructions have a word: the one condition is that SUB_POS has a nonzero mantissa (R36, R59). -/

namespace Sys2Proof

/-- An instruction is well formed when some input word stands for it. Only SUB_POS has a condition: with `m = 0` its
word would be 0x0000, which is ZERO (R36, R59). -/
abbrev WellFormed (i : Instr) : Prop := i ≠ .subPos 0

end Sys2Proof
end

