-- ==== Sys2Proof/Decode.lean ====
section
/-! DEFINITION. From the input port to an instruction and back: reading the pins (R23, R89), the fields of the input word
(R31, R45, R48), the decoder (R33, R36, R37), the opcode table as rows of mask and match, and the encoder. -/

namespace Sys2Proof

/-! ### The input port as a word -/

/-- The bit a pin carries; none for a pin that is not two-valued (R89). -/
def Pin.bit? : Pin → Option Nat
  | .low => some 0
  | .high => some 1
  | .unknown => none
  | .floating => none

/-- The number a row of pins carries, least significant pin first (R6, R23); none if some pin is not two-valued. -/
def pinsValue? : List Pin → Option Nat
  | [] => some 0
  | p :: ps =>
    match p.bit?, pinsValue? ps with
    | some b, some n => some (b + 2 * n)
    | _, _ => none

/-- The input word on the port, read whole (R25); none for an input that is not two-valued (R89). -/
def HsnrPort.word? (p : HsnrPort) : Option Word16 :=
  (pinsValue? p.pins.toList).map (BitVec.ofNat 16)

/-- The level that stands for bit `i` of `h`. -/
def bitPin (h : Word16) (i : Nat) : Pin :=
  if h.getLsbD i then .high else .low

/-- The port when the host drives the two-valued word `h` on it: pin `i` carries bit `i` (R23). -/
def HsnrPort.ofWord (h : Word16) : HsnrPort :=
  ⟨#v[bitPin h 0, bitPin h 1, bitPin h 2, bitPin h 3, bitPin h 4, bitPin h 5, bitPin h 6, bitPin h 7,
      bitPin h 8, bitPin h 9, bitPin h 10, bitPin h 11, bitPin h 12, bitPin h 13, bitPin h 14, bitPin h 15]⟩

/-! ### The fields of the input word (R31) -/

/-- `h[15:12]`, the exponent `e` (R31, R45). -/
def expField (h : Word16) : BitVec 4 := h.extractLsb' 12 4

/-- `h[11]`, the sign `s` (R31, R45). -/
def signField (h : Word16) : Bool := h.getLsbD 11

/-- `h[10:0]`, the mantissa `m` (R31). -/
def mantField (h : Word16) : Mantissa := h.extractLsb' 0 11

/-- `h[11:0]`, the 12-bit group of sign and mantissa (R34, R48). -/
def groupField (h : Word16) : BitVec 12 := h.extractLsb' 0 12

/-- The input word with the given fields, `{e, s, m}` (R31). -/
def inputWord (e : BitVec 4) (s : Bool) (m : Mantissa) : Word16 :=
  e ++ BitVec.ofBool s ++ m

/-! ### The decoder -/

/-- The row of the opcode table that the word `h` belongs to (R33, R36). Total: no word is illegal or reserved (R37).
The last two arms are `e = 15`, the only value of a 4-bit field the arms above leave. -/
def decode (h : Word16) : Instr :=
  match (expField h).toNat, signField h with
  | 0, false => if h = 0x0000#16 then .zero else .subPos (mantField h)
  | 0, true => .subNeg (mantField h)
  | 1, false => .normPosE1 (mantField h)
  | 1, true => .normNegE1 (mantField h)
  | 2, false => .normPosE2 (mantField h)
  | 2, true => .normNegE2 (mantField h)
  | 3, false => .normPosE3 (mantField h)
  | 3, true => .normNegE3 (mantField h)
  | 4, false => .normPosE4 (mantField h)
  | 4, true => .normNegE4 (mantField h)
  | 5, false => .normPosE5 (mantField h)
  | 5, true => .normNegE5 (mantField h)
  | 6, false => .normPosE6 (mantField h)
  | 6, true => .normNegE6 (mantField h)
  | 7, false => .normPosE7 (mantField h)
  | 7, true => .normNegE7 (mantField h)
  | 8, false => .normPosE8 (mantField h)
  | 8, true => .normNegE8 (mantField h)
  | 9, false => .normPosE9 (mantField h)
  | 9, true => .normNegE9 (mantField h)
  | 10, false => .normPosE10 (mantField h)
  | 10, true => .normNegE10 (mantField h)
  | 11, false => .normPosE11 (mantField h)
  | 11, true => .normNegE11 (mantField h)
  | 12, false => .normPosE12 (mantField h)
  | 12, true => .normNegE12 (mantField h)
  | 13, false => .normPosE13 (mantField h)
  | 13, true => .normNegE13 (mantField h)
  | 14, false => .normPosE14 (mantField h)
  | 14, true => .normNegE14 (mantField h)
  | _, false => .normPosE15 (mantField h)
  | _, true => .normNegE15 (mantField h)

/-- Why an input gives no instruction. No two-valued word is rejected (R37). -/
inductive DecodeReject where
  /-- Some pin of the port is not two-valued: the model refuses the input (R89). -/
  | nonTwoValuedInput
deriving DecidableEq, Repr

/-- The decoder at the port: total on every input the port can carry, rejecting by name. -/
def decodePort (p : HsnrPort) : Except DecodeReject Instr :=
  match p.word? with
  | some h => .ok (decode h)
  | none => .error .nonTwoValuedInput

/-- The instruction the decoder reads from the opcode table's word `w` of `nbits` bits. The block's word has 16 bits
(R38), so a shorter word has zeros above it and a longer one is no input of the block. -/
def decodeTableWord (nbits w : Nat) : Option Instr :=
  if nbits ≤ 16 then
    match decodePort (HsnrPort.ofWord (BitVec.ofNat 16 (w % 2 ^ nbits))) with
    | .ok i => some i
    | .error _ => none
  else none

/-! ### The opcode table and the encoder -/

/-- One row of the opcode table: its mnemonic, and the mask and match of R36. -/
structure OpcodeRow where
  mnemonic : String
  mask : Word16
  matchBits : Word16
deriving DecidableEq, Repr

/-- Whether the word `h` meets the row's mask and match. -/
def OpcodeRow.meets (r : OpcodeRow) (h : Word16) : Bool :=
  h &&& r.mask == r.matchBits

/-- The row of spec/opcode_table.json that a constructor stands for. -/
def Instr.row : Instr → OpcodeRow
  | .zero => ⟨"DECODE.ZERO", 0xFFFF#16, 0x0000#16⟩
  | .subPos _ => ⟨"DECODE.SUB_POS", 0xF800#16, 0x0000#16⟩
  | .subNeg _ => ⟨"DECODE.SUB_NEG", 0xF800#16, 0x0800#16⟩
  | .normPosE1 _ => ⟨"DECODE.NORM_POS.E1", 0xF800#16, 0x1000#16⟩
  | .normPosE2 _ => ⟨"DECODE.NORM_POS.E2", 0xF800#16, 0x2000#16⟩
  | .normPosE3 _ => ⟨"DECODE.NORM_POS.E3", 0xF800#16, 0x3000#16⟩
  | .normPosE4 _ => ⟨"DECODE.NORM_POS.E4", 0xF800#16, 0x4000#16⟩
  | .normPosE5 _ => ⟨"DECODE.NORM_POS.E5", 0xF800#16, 0x5000#16⟩
  | .normPosE6 _ => ⟨"DECODE.NORM_POS.E6", 0xF800#16, 0x6000#16⟩
  | .normPosE7 _ => ⟨"DECODE.NORM_POS.E7", 0xF800#16, 0x7000#16⟩
  | .normPosE8 _ => ⟨"DECODE.NORM_POS.E8", 0xF800#16, 0x8000#16⟩
  | .normPosE9 _ => ⟨"DECODE.NORM_POS.E9", 0xF800#16, 0x9000#16⟩
  | .normPosE10 _ => ⟨"DECODE.NORM_POS.E10", 0xF800#16, 0xA000#16⟩
  | .normPosE11 _ => ⟨"DECODE.NORM_POS.E11", 0xF800#16, 0xB000#16⟩
  | .normPosE12 _ => ⟨"DECODE.NORM_POS.E12", 0xF800#16, 0xC000#16⟩
  | .normPosE13 _ => ⟨"DECODE.NORM_POS.E13", 0xF800#16, 0xD000#16⟩
  | .normPosE14 _ => ⟨"DECODE.NORM_POS.E14", 0xF800#16, 0xE000#16⟩
  | .normPosE15 _ => ⟨"DECODE.NORM_POS.E15", 0xF800#16, 0xF000#16⟩
  | .normNegE1 _ => ⟨"DECODE.NORM_NEG.E1", 0xF800#16, 0x1800#16⟩
  | .normNegE2 _ => ⟨"DECODE.NORM_NEG.E2", 0xF800#16, 0x2800#16⟩
  | .normNegE3 _ => ⟨"DECODE.NORM_NEG.E3", 0xF800#16, 0x3800#16⟩
  | .normNegE4 _ => ⟨"DECODE.NORM_NEG.E4", 0xF800#16, 0x4800#16⟩
  | .normNegE5 _ => ⟨"DECODE.NORM_NEG.E5", 0xF800#16, 0x5800#16⟩
  | .normNegE6 _ => ⟨"DECODE.NORM_NEG.E6", 0xF800#16, 0x6800#16⟩
  | .normNegE7 _ => ⟨"DECODE.NORM_NEG.E7", 0xF800#16, 0x7800#16⟩
  | .normNegE8 _ => ⟨"DECODE.NORM_NEG.E8", 0xF800#16, 0x8800#16⟩
  | .normNegE9 _ => ⟨"DECODE.NORM_NEG.E9", 0xF800#16, 0x9800#16⟩
  | .normNegE10 _ => ⟨"DECODE.NORM_NEG.E10", 0xF800#16, 0xA800#16⟩
  | .normNegE11 _ => ⟨"DECODE.NORM_NEG.E11", 0xF800#16, 0xB800#16⟩
  | .normNegE12 _ => ⟨"DECODE.NORM_NEG.E12", 0xF800#16, 0xC800#16⟩
  | .normNegE13 _ => ⟨"DECODE.NORM_NEG.E13", 0xF800#16, 0xD800#16⟩
  | .normNegE14 _ => ⟨"DECODE.NORM_NEG.E14", 0xF800#16, 0xE800#16⟩
  | .normNegE15 _ => ⟨"DECODE.NORM_NEG.E15", 0xF800#16, 0xF800#16⟩

/-- The operand bits an instruction carries in its word: its mantissa field. -/
def Instr.operand : Instr → Mantissa
  | .zero => 0
  | .subPos m => m
  | .subNeg m => m
  | .normPosE1 m => m
  | .normPosE2 m => m
  | .normPosE3 m => m
  | .normPosE4 m => m
  | .normPosE5 m => m
  | .normPosE6 m => m
  | .normPosE7 m => m
  | .normPosE8 m => m
  | .normPosE9 m => m
  | .normPosE10 m => m
  | .normPosE11 m => m
  | .normPosE12 m => m
  | .normPosE13 m => m
  | .normPosE14 m => m
  | .normPosE15 m => m
  | .normNegE1 m => m
  | .normNegE2 m => m
  | .normNegE3 m => m
  | .normNegE4 m => m
  | .normNegE5 m => m
  | .normNegE6 m => m
  | .normNegE7 m => m
  | .normNegE8 m => m
  | .normNegE9 m => m
  | .normNegE10 m => m
  | .normNegE11 m => m
  | .normNegE12 m => m
  | .normNegE13 m => m
  | .normNegE14 m => m
  | .normNegE15 m => m

/-- The class of an instruction (R36). -/
def Instr.inputClass : Instr → InputClass
  | .zero => .zero
  | .subPos _ => .subPos
  | .subNeg _ => .subNeg
  | .normPosE1 _ => .normPos
  | .normPosE2 _ => .normPos
  | .normPosE3 _ => .normPos
  | .normPosE4 _ => .normPos
  | .normPosE5 _ => .normPos
  | .normPosE6 _ => .normPos
  | .normPosE7 _ => .normPos
  | .normPosE8 _ => .normPos
  | .normPosE9 _ => .normPos
  | .normPosE10 _ => .normPos
  | .normPosE11 _ => .normPos
  | .normPosE12 _ => .normPos
  | .normPosE13 _ => .normPos
  | .normPosE14 _ => .normPos
  | .normPosE15 _ => .normPos
  | .normNegE1 _ => .normNeg
  | .normNegE2 _ => .normNeg
  | .normNegE3 _ => .normNeg
  | .normNegE4 _ => .normNeg
  | .normNegE5 _ => .normNeg
  | .normNegE6 _ => .normNeg
  | .normNegE7 _ => .normNeg
  | .normNegE8 _ => .normNeg
  | .normNegE9 _ => .normNeg
  | .normNegE10 _ => .normNeg
  | .normNegE11 _ => .normNeg
  | .normNegE12 _ => .normNeg
  | .normNegE13 _ => .normNeg
  | .normNegE14 _ => .normNeg
  | .normNegE15 _ => .normNeg

/-- The first part of the table: the rows of the subnormal regime, ZERO before SUB_POS (R36). -/
def subnormalRows : List OpcodeRow :=
  [Instr.zero.row, (Instr.subPos 0).row, (Instr.subNeg 0).row]

/-- The rows of class NORM_POS. -/
def normPosRows : List OpcodeRow :=
  [(Instr.normPosE1 0).row, (Instr.normPosE2 0).row, (Instr.normPosE3 0).row, (Instr.normPosE4 0).row, (Instr.normPosE5 0).row, (Instr.normPosE6 0).row, (Instr.normPosE7 0).row, (Instr.normPosE8 0).row]
    ++ [(Instr.normPosE9 0).row, (Instr.normPosE10 0).row, (Instr.normPosE11 0).row, (Instr.normPosE12 0).row, (Instr.normPosE13 0).row, (Instr.normPosE14 0).row, (Instr.normPosE15 0).row]

/-- The rows of class NORM_NEG. -/
def normNegRows : List OpcodeRow :=
  [(Instr.normNegE1 0).row, (Instr.normNegE2 0).row, (Instr.normNegE3 0).row, (Instr.normNegE4 0).row, (Instr.normNegE5 0).row, (Instr.normNegE6 0).row, (Instr.normNegE7 0).row, (Instr.normNegE8 0).row]
    ++ [(Instr.normNegE9 0).row, (Instr.normNegE10 0).row, (Instr.normNegE11 0).row, (Instr.normNegE12 0).row, (Instr.normNegE13 0).row, (Instr.normNegE14 0).row, (Instr.normNegE15 0).row]

/-- The opcode table, in the order its rows are tested (R36). -/
def opcodeTable : List OpcodeRow :=
  subnormalRows ++ normPosRows ++ normNegRows

/-- The word of an instruction: its row's match bits with the mantissa in bits 10..0. -/
def encode (i : Instr) : Word16 :=
  i.row.matchBits ||| i.operand.setWidth 16

end Sys2Proof
end

