-- ==== Sys2Proof/Machine/State.lean ====
section
/-! DEFINITION. The state of a run of HSNR2F32. The block itself holds no architectural state (R11, R13 to R17, R20); what
a run has is its two ports (R12) and the words its host is still to present (R18, R98). -/

namespace Sys2Proof.Machine

/-- The two ports of the block, and the host's side of the input port. -/
structure State where
  /-- `hsnr_in[15:0]`, what the host drives now (R12). -/
  hsnrIn : HsnrPort
  /-- `f32_out[31:0]`, the settled output pattern (R12, R94). -/
  f32Out : Word32
  /-- What the host presents next, oldest first: the model's own field for the sequence of inputs that the spec
  calls a program (R14, R42, R98; log entry 2). -/
  pending : List HsnrPort
deriving DecidableEq, Repr

/-- The faults of the block: none. The spec gives DECODE no error condition of any kind (R76, R80). -/
inductive Fault where
deriving DecidableEq, Repr

/-- Why a step has no meaning. -/
inductive Refusal where
  /-- An instruction without a meaning, refused by its arm of `exec`. No arm does so. Safe. -/
  | notModelled (mnemonic : String)
  /-- Raised by `step` when the input presented has a pin that is not two-valued: the model gives it no output
  value (R89). Safe: no claim about such an input can be proved. -/
  | nonTwoValuedInput
deriving DecidableEq, Repr

/-- The machine at power-up. There is no reset input and no state to reset (R21, R90): the output is DECODE of the
present input (R91). The spec names no input word at power-up; the model's host holds every pin low, the word 0x0000
(DESIGN CHOICE, log entry 3), whose output is +0 (R58), and has presented nothing else. -/
def State.reset : State where
  hsnrIn := ⟨#v[.low, .low, .low, .low, .low, .low, .low, .low, .low, .low, .low, .low, .low, .low, .low, .low]⟩
  f32Out := 0x00000000#32
  pending := []

end Sys2Proof.Machine
end

