-- ==== Sys2Proof/Machine/Operands.lean ====
section
/-! DEFINITION. The operand of DECODE: the constants of the block (R5, R41), the integer a word stands for (R34, R35), and
the bit functions the rules use (R7). The fields themselves (R31, R45, R48) are in Sys2Proof/Decode.lean. -/

namespace Sys2Proof.Machine

/-! ### Constants (R5, R41) -/

/-- "biased by 25": the source bias, for the integer significand (R5, conflict C3). -/
abbrev sourceExponentBias : Nat := 25

/-- The target bias (R5). -/
abbrev targetFloatExponentBias : Nat := 127

/-- 23 − 11 (R5). -/
abbrev mantissaWidthDifference : Nat := 23 - 11

/-- The exponent offset 114 = 127 − 25 + 12 (R5, R41). -/
abbrev exponentOffset : BitVec 8 :=
  BitVec.ofNat 8 (targetFloatExponentBias - sourceExponentBias + mantissaWidthDifference)

/-- The pre-shift distance 11 (R5, R41). -/
abbrev preShiftDistance : Nat := mantissaWidthDifference - 1

/-- The bit the normalized regime flips in the 12-bit magnitude (R41, R49). -/
abbrev implicitBit : BitVec 12 := 0x800#12

/-- Ones above bit 11 (R41, R50). -/
abbrev extensionFill : Word32 := 0xFFFFF000#32

/-- Output bit 31 (R41, R46). -/
abbrev targetSignBit : Word32 := 0x80000000#32

/-- "bit 23 and above" (R41, R53). -/
abbrev leadingBitTestMask : Word32 := 0xFF800000#32

/-- The 23 fraction bits (R41, R55). -/
abbrev fractionMask : Word32 := 0x007FFFFF#32

/-! ### The integer significand -/

/-- The 13-bit group `{s, NOT s, m}` of the normalized regime (R35). -/
def normalizedGroup (h : Word16) : BitVec 13 :=
  BitVec.ofBool (signField h) ++ BitVec.ofBool (!signField h) ++ mantField h

/-- The integer `v` a word stands for: `signed_12(h[11:0])` in the subnormal regime (R34), `signed_13({s, NOT s, m})`
in the normalized regime (R35). -/
def significand (h : Word16) : Int :=
  if expField h = 0 then (groupField h).toInt else (normalizedGroup h).toInt

/-- `msb(v)`, the index of the highest set bit of a nonzero `v` (R7). -/
def msb (v : Nat) : Nat := v.log2

end Sys2Proof.Machine
end

