-- ==== Sys2Proof/Machine/Flags.lean ====
section
/-! DEFINITION. The one-bit select wires of the datapath. The block has no architectural flag, condition code or status
output (R15): these are combinational functions of the input word (R19) and are held nowhere. -/

namespace Sys2Proof.Machine

/-- `is_zero`, the 16-input zero detector that selects the bypass (R19, R44). -/
def isZero (h : Word16) : Bool := h == 0x0000#16

/-- `sign_flag := h[11]` (R19, R45). -/
def signFlag (h : Word16) : Bool := signField h

/-- The select of the regime multiplexer, `raw_exponent == 0` (R33, R49). -/
def isSubnormal (e : BitVec 4) : Bool := e == 0#4

end Sys2Proof.Machine
end

