-- ==== Sys2Proof/Machine/Ops.lean ====
section
/-! DEFINITION. The five stages of DECODE (R43 to R56) with every internal signal of R19, the operation as a whole, and the
operations on the ports. The working width is the 32-bit reference width (R5, R57, D7). There is no memory (R22), no
register (R13) and no exception to take or return from (R76, R80, R81), so no operation for them. -/

namespace Sys2Proof.Machine

/-! ### Field extraction and regime multiplexer -/

/-- `target_sign` (R46). -/
def targetSign (sign : Bool) : Word32 :=
  if sign then targetSignBit else 0#32

/-- `exp0 := zext_8(raw_exponent) + 114` (R47). -/
def exponentBase (e : BitVec 4) : BitVec 8 :=
  e.setWidth 8 + exponentOffset

/-- `exp1`: the subnormal regime adds 1 (R49). -/
def regimeExponent (e : BitVec 4) (exp0 : BitVec 8) : BitVec 8 :=
  if isSubnormal e then exp0 + 1#8 else exp0

/-- `mag1`: the normalized regime flips bit 11 (R49). -/
def regimeMagnitude (e : BitVec 4) (mag0 : BitVec 12) : BitVec 12 :=
  if isSubnormal e then mag0 else mag0 ^^^ implicitBit

/-! ### Sign-extension unwinder -/

/-- `mag2`. The fill with ones above bit 11 is unconditional for a negative word: it does not copy bit 11 (R50,
conflict C4). -/
def unwind (sign : Bool) (mag1 : BitVec 12) : Word32 :=
  if sign then -(mag1.setWidth 32 ||| extensionFill) else mag1.setWidth 32

/-! ### Barrel-shift normalizer -/

/-- `mag3 := mag2 << 11` (R52). -/
def preShift (mag2 : Word32) : Word32 := mag2 <<< preShiftDistance

/-- The loop variables of the normalizer (R53). -/
structure Normal where
  mag4 : Word32
  exp2 : BitVec 8
  k : BitVec 4
deriving DecidableEq, Repr

/-- The normalizer's loop, the normative form (R53), on a bound of rounds. A 32-bit magnitude has no bit left after 32
shifts, so 32 rounds cut short no loop that ends; the true worst case is 12 (R54, conflict C2; log entry 6). -/
def normalizeLoop : Nat → Normal → Normal
  | 0, n => n
  | rounds + 1, n =>
    if n.mag4 &&& leadingBitTestMask = 0#32 then
      normalizeLoop rounds ⟨n.mag4 <<< 1, n.exp2 - 1#8, n.k + 1#4⟩
    else n

/-- The normalizer: the loop started from `mag3` and `exp1` with `k := 0` (R53). -/
def normalize (mag3 : Word32) (exp1 : BitVec 8) : Normal :=
  normalizeLoop 32 ⟨mag3, exp1, 0#4⟩

/-- The normalizer in closed form: a leading-one detector on `mag2` and a left barrel shifter (R54, D8). -/
def normalizeClosed (mag2 mag3 : Word32) (exp1 : BitVec 8) : Normal :=
  let k := 12 - msb mag2.toNat
  ⟨mag3 <<< k, exp1 - BitVec.ofNat 8 k, BitVec.ofNat 4 k⟩

/-! ### IEEE 754 packer -/

/-- `frac`: the hidden leading bit removed, `mag4[22:0]` (R19, R55). -/
def fraction (mag4 : Word32) : BitVec 23 :=
  (mag4 &&& fractionMask).setWidth 23

/-- `packed := target_sign | (zext_32(exp2) << 23) | zext_32(frac)` (R19, R56). -/
def pack (sign : Word32) (exp2 : BitVec 8) (frac : BitVec 23) : Word32 :=
  sign ||| (exp2.setWidth 32 <<< 23) ||| frac.setWidth 32

/-! ### DECODE as a whole -/

/-- The signals from the normalizer on (R19). -/
structure BackSignals where
  normal : Normal
  frac : BitVec 23
  packed : Word32
deriving DecidableEq, Repr

/-- Every internal signal of R19, by its name. They are wires, not state: a function of the input word alone. `back` is
none for the zero word, which the bypass takes past the normalizer (R44, R58; log entry 7). -/
structure Signals where
  isZero : Bool
  signFlag : Bool
  rawExponent : BitVec 4
  targetSign : Word32
  exp0 : BitVec 8
  mag0 : BitVec 12
  exp1 : BitVec 8
  mag1 : BitVec 12
  mag2 : Word32
  mag3 : Word32
  back : Option BackSignals
deriving DecidableEq, Repr

/-- The signals from the normalizer on, from the ones before it (R53 to R56). -/
def backSignals (sign mag3 : Word32) (exp1 : BitVec 8) : BackSignals :=
  let n := normalize mag3 exp1
  ⟨n, fraction n.mag4, pack sign n.exp2 (fraction n.mag4)⟩

/-- The signals of the block while `h` is on its input, stage by stage (R43). -/
def signals (h : Word16) : Signals :=
  let sign := signFlag h
  let e := expField h
  let tsign := targetSign sign
  let exp0 := exponentBase e
  let mag0 := groupField h
  let exp1 := regimeExponent e exp0
  let mag1 := regimeMagnitude e mag0
  let mag2 := unwind sign mag1
  let mag3 := preShift mag2
  { isZero := isZero h, signFlag := sign, rawExponent := e, targetSign := tsign, exp0 := exp0, mag0 := mag0,
    exp1 := exp1, mag1 := mag1, mag2 := mag2, mag3 := mag3,
    back := if isZero h then none else some (backSignals tsign mag3 exp1) }

/-- The output multiplexer: the bypass's zero takes precedence over the packer (R44, R79). -/
def outputOf (g : Signals) : Word32 :=
  match g.back with
  | none => 0x00000000#32
  | some b => b.packed

/-- DECODE: the 32-bit pattern the block gives for the input word `h` (R43). -/
def hsnrToF32 (h : Word16) : Word32 := outputOf (signals h)

/-! ### Operations on the ports -/

/-- The output port takes the pattern `F`. -/
def State.showOutput (F : Word32) (s : State) : State := { s with f32Out := F }

/-- One evaluation of the block, atomic and of zero duration: the output settles to DECODE of `h` (R25, R93). -/
def State.evaluate (h : Word16) (s : State) : State := s.showOutput (hsnrToF32 h)

/-- The host's move before an evaluation: it presents its next input, or holds the one it drives (R18, R98). -/
def State.presentNext (s : State) : State :=
  match s.pending with
  | [] => s
  | p :: ps => { s with hsnrIn := p, pending := ps }

/-- The host puts an input before all it was still to present. -/
def State.enqueueFirst (p : HsnrPort) (s : State) : State := { s with pending := p :: s.pending }

/-- What a host reads that samples the output after the input has been stable for `stableFor`: the settled pattern once
`T_PD` has passed and the input is two-valued; before that the model shows no value (R94, R89, D18; log entry 8). -/
def State.sample (stableFor : Nat) (s : State) : Option Word32 :=
  if Config.tPD ≤ stableFor then s.hsnrIn.word?.map fun _ => s.f32Out else none

end Sys2Proof.Machine
end

