-- ==== Sys2Proof/Machine/NormNeg.lean ====
section
/-! DEFINITION. The meanings of the class NORM_NEG (R62): one per exponent value 1..15. Each is DECODE (R43) of the word
`{e, 1, m}`. -/

namespace Sys2Proof.Machine

/-- DECODE.NORM_NEG.E1 (R62). -/
def execNormNegE1 (m : Mantissa) (s : State) : Host.Outcome State Fault Refusal :=
  .next (s.evaluate (inputWord 1#4 true m))

/-- DECODE.NORM_NEG.E2 (R62). -/
def execNormNegE2 (m : Mantissa) (s : State) : Host.Outcome State Fault Refusal :=
  .next (s.evaluate (inputWord 2#4 true m))

/-- DECODE.NORM_NEG.E3 (R62). -/
def execNormNegE3 (m : Mantissa) (s : State) : Host.Outcome State Fault Refusal :=
  .next (s.evaluate (inputWord 3#4 true m))

/-- DECODE.NORM_NEG.E4 (R62). -/
def execNormNegE4 (m : Mantissa) (s : State) : Host.Outcome State Fault Refusal :=
  .next (s.evaluate (inputWord 4#4 true m))

/-- DECODE.NORM_NEG.E5 (R62). -/
def execNormNegE5 (m : Mantissa) (s : State) : Host.Outcome State Fault Refusal :=
  .next (s.evaluate (inputWord 5#4 true m))

/-- DECODE.NORM_NEG.E6 (R62). -/
def execNormNegE6 (m : Mantissa) (s : State) : Host.Outcome State Fault Refusal :=
  .next (s.evaluate (inputWord 6#4 true m))

/-- DECODE.NORM_NEG.E7 (R62). -/
def execNormNegE7 (m : Mantissa) (s : State) : Host.Outcome State Fault Refusal :=
  .next (s.evaluate (inputWord 7#4 true m))

/-- DECODE.NORM_NEG.E8 (R62). -/
def execNormNegE8 (m : Mantissa) (s : State) : Host.Outcome State Fault Refusal :=
  .next (s.evaluate (inputWord 8#4 true m))

/-- DECODE.NORM_NEG.E9 (R62). -/
def execNormNegE9 (m : Mantissa) (s : State) : Host.Outcome State Fault Refusal :=
  .next (s.evaluate (inputWord 9#4 true m))

/-- DECODE.NORM_NEG.E10 (R62). -/
def execNormNegE10 (m : Mantissa) (s : State) : Host.Outcome State Fault Refusal :=
  .next (s.evaluate (inputWord 10#4 true m))

/-- DECODE.NORM_NEG.E11 (R62). -/
def execNormNegE11 (m : Mantissa) (s : State) : Host.Outcome State Fault Refusal :=
  .next (s.evaluate (inputWord 11#4 true m))

/-- DECODE.NORM_NEG.E12 (R62). -/
def execNormNegE12 (m : Mantissa) (s : State) : Host.Outcome State Fault Refusal :=
  .next (s.evaluate (inputWord 12#4 true m))

/-- DECODE.NORM_NEG.E13 (R62). -/
def execNormNegE13 (m : Mantissa) (s : State) : Host.Outcome State Fault Refusal :=
  .next (s.evaluate (inputWord 13#4 true m))

/-- DECODE.NORM_NEG.E14 (R62). -/
def execNormNegE14 (m : Mantissa) (s : State) : Host.Outcome State Fault Refusal :=
  .next (s.evaluate (inputWord 14#4 true m))

/-- DECODE.NORM_NEG.E15 (R62). -/
def execNormNegE15 (m : Mantissa) (s : State) : Host.Outcome State Fault Refusal :=
  .next (s.evaluate (inputWord 15#4 true m))

end Sys2Proof.Machine
end

