-- ==== Sys2Proof/Machine/NormPos.lean ====
section
/-! DEFINITION. The meanings of the class NORM_POS (R61): one per exponent value 1..15. Each is DECODE (R43) of the word
`{e, 0, m}`. -/

namespace Sys2Proof.Machine

/-- DECODE.NORM_POS.E1 (R61). -/
def execNormPosE1 (m : Mantissa) (s : State) : Host.Outcome State Fault Refusal :=
  .next (s.evaluate (inputWord 1#4 false m))

/-- DECODE.NORM_POS.E2 (R61). -/
def execNormPosE2 (m : Mantissa) (s : State) : Host.Outcome State Fault Refusal :=
  .next (s.evaluate (inputWord 2#4 false m))

/-- DECODE.NORM_POS.E3 (R61). -/
def execNormPosE3 (m : Mantissa) (s : State) : Host.Outcome State Fault Refusal :=
  .next (s.evaluate (inputWord 3#4 false m))

/-- DECODE.NORM_POS.E4 (R61). -/
def execNormPosE4 (m : Mantissa) (s : State) : Host.Outcome State Fault Refusal :=
  .next (s.evaluate (inputWord 4#4 false m))

/-- DECODE.NORM_POS.E5 (R61). -/
def execNormPosE5 (m : Mantissa) (s : State) : Host.Outcome State Fault Refusal :=
  .next (s.evaluate (inputWord 5#4 false m))

/-- DECODE.NORM_POS.E6 (R61). -/
def execNormPosE6 (m : Mantissa) (s : State) : Host.Outcome State Fault Refusal :=
  .next (s.evaluate (inputWord 6#4 false m))

/-- DECODE.NORM_POS.E7 (R61). -/
def execNormPosE7 (m : Mantissa) (s : State) : Host.Outcome State Fault Refusal :=
  .next (s.evaluate (inputWord 7#4 false m))

/-- DECODE.NORM_POS.E8 (R61). -/
def execNormPosE8 (m : Mantissa) (s : State) : Host.Outcome State Fault Refusal :=
  .next (s.evaluate (inputWord 8#4 false m))

/-- DECODE.NORM_POS.E9 (R61). -/
def execNormPosE9 (m : Mantissa) (s : State) : Host.Outcome State Fault Refusal :=
  .next (s.evaluate (inputWord 9#4 false m))

/-- DECODE.NORM_POS.E10 (R61). -/
def execNormPosE10 (m : Mantissa) (s : State) : Host.Outcome State Fault Refusal :=
  .next (s.evaluate (inputWord 10#4 false m))

/-- DECODE.NORM_POS.E11 (R61). -/
def execNormPosE11 (m : Mantissa) (s : State) : Host.Outcome State Fault Refusal :=
  .next (s.evaluate (inputWord 11#4 false m))

/-- DECODE.NORM_POS.E12 (R61). -/
def execNormPosE12 (m : Mantissa) (s : State) : Host.Outcome State Fault Refusal :=
  .next (s.evaluate (inputWord 12#4 false m))

/-- DECODE.NORM_POS.E13 (R61). -/
def execNormPosE13 (m : Mantissa) (s : State) : Host.Outcome State Fault Refusal :=
  .next (s.evaluate (inputWord 13#4 false m))

/-- DECODE.NORM_POS.E14 (R61). -/
def execNormPosE14 (m : Mantissa) (s : State) : Host.Outcome State Fault Refusal :=
  .next (s.evaluate (inputWord 14#4 false m))

/-- DECODE.NORM_POS.E15 (R61). -/
def execNormPosE15 (m : Mantissa) (s : State) : Host.Outcome State Fault Refusal :=
  .next (s.evaluate (inputWord 15#4 false m))

end Sys2Proof.Machine
end

