-- ==== Sys2Proof/Machine/Subnormal.lean ====
section
/-! DEFINITION. The meanings of the classes SUB_POS and SUB_NEG (R59, R60). Each is DECODE (R43) of the word `{0000, s, m}`. -/

namespace Sys2Proof.Machine

/-- DECODE.SUB_POS (R59). -/
def execSubPos (m : Mantissa) (s : State) : Host.Outcome State Fault Refusal :=
  .next (s.evaluate (inputWord 0#4 false m))

/-- DECODE.SUB_NEG (R60). -/
def execSubNeg (m : Mantissa) (s : State) : Host.Outcome State Fault Refusal :=
  .next (s.evaluate (inputWord 0#4 true m))

end Sys2Proof.Machine
end

