-- ==== Sys2Proof/Machine/Zero.lean ====
section
/-! DEFINITION. The meaning of the class ZERO (R58). -/

namespace Sys2Proof.Machine

/-- DECODE.ZERO (R58): DECODE of the word 0x0000, which the bypass takes to +0 (R44). -/
def execZero (s : State) : Host.Outcome State Fault Refusal :=
  .next (s.evaluate 0x0000#16)

end Sys2Proof.Machine
end

