-- ==== Sys2Proof/Machine/Dispatch.lean ====
section
/-! DEFINITION. One arm per constructor of `Instr`, each a call of that instruction's own meaning. -/

namespace Sys2Proof.Machine

def exec (i : Instr) (s : State) : Host.Outcome State Fault Refusal :=
  match i with
  | .zero => Sys2Proof.Machine.execZero s
  | .subPos m => Sys2Proof.Machine.execSubPos m s
  | .subNeg m => Sys2Proof.Machine.execSubNeg m s
  | .normPosE1 m => Sys2Proof.Machine.execNormPosE1 m s
  | .normPosE2 m => Sys2Proof.Machine.execNormPosE2 m s
  | .normPosE3 m => Sys2Proof.Machine.execNormPosE3 m s
  | .normPosE4 m => Sys2Proof.Machine.execNormPosE4 m s
  | .normPosE5 m => Sys2Proof.Machine.execNormPosE5 m s
  | .normPosE6 m => Sys2Proof.Machine.execNormPosE6 m s
  | .normPosE7 m => Sys2Proof.Machine.execNormPosE7 m s
  | .normPosE8 m => Sys2Proof.Machine.execNormPosE8 m s
  | .normPosE9 m => Sys2Proof.Machine.execNormPosE9 m s
  | .normPosE10 m => Sys2Proof.Machine.execNormPosE10 m s
  | .normPosE11 m => Sys2Proof.Machine.execNormPosE11 m s
  | .normPosE12 m => Sys2Proof.Machine.execNormPosE12 m s
  | .normPosE13 m => Sys2Proof.Machine.execNormPosE13 m s
  | .normPosE14 m => Sys2Proof.Machine.execNormPosE14 m s
  | .normPosE15 m => Sys2Proof.Machine.execNormPosE15 m s
  | .normNegE1 m => Sys2Proof.Machine.execNormNegE1 m s
  | .normNegE2 m => Sys2Proof.Machine.execNormNegE2 m s
  | .normNegE3 m => Sys2Proof.Machine.execNormNegE3 m s
  | .normNegE4 m => Sys2Proof.Machine.execNormNegE4 m s
  | .normNegE5 m => Sys2Proof.Machine.execNormNegE5 m s
  | .normNegE6 m => Sys2Proof.Machine.execNormNegE6 m s
  | .normNegE7 m => Sys2Proof.Machine.execNormNegE7 m s
  | .normNegE8 m => Sys2Proof.Machine.execNormNegE8 m s
  | .normNegE9 m => Sys2Proof.Machine.execNormNegE9 m s
  | .normNegE10 m => Sys2Proof.Machine.execNormNegE10 m s
  | .normNegE11 m => Sys2Proof.Machine.execNormNegE11 m s
  | .normNegE12 m => Sys2Proof.Machine.execNormNegE12 m s
  | .normNegE13 m => Sys2Proof.Machine.execNormNegE13 m s
  | .normNegE14 m => Sys2Proof.Machine.execNormNegE14 m s
  | .normNegE15 m => Sys2Proof.Machine.execNormNegE15 m s

end Sys2Proof.Machine
end

