-- ==== Sys2Proof/Machine/Step.lean ====
section
/-! DEFINITION. One step: the host presents its next input, the input settles, and the block evaluates DECODE once (R18,
R93). -/

namespace Sys2Proof.Machine

/-- One step of the machine. -/
def step (s : State) : Host.Outcome State Fault Refusal :=
  match decodePort s.presentNext.hsnrIn with
  | .ok i => exec i s.presentNext
  | .error .nonTwoValuedInput => .refused .nonTwoValuedInput

/-- `s` with the table's word `w` of `nbits` bits as the next input its host presents (log entry 5). -/
def State.withFetchWord (s : State) (nbits w : Nat) : State :=
  s.enqueueFirst (HsnrPort.ofWord (BitVec.ofNat 16 (w % 2 ^ nbits)))

end Sys2Proof.Machine
end

