-- ==== Sys2Proof/Machine/Instances.lean ====
section
/-! DEFINITION. Several converters side by side (R28, R86): each has ports of its own, and an evaluation of one is a step of
that one alone. They share nothing and signal nothing to each other. -/

namespace Sys2Proof.Machine

/-- A system of `n` converter instances. -/
abbrev Bank (n : Nat) := Vector State n

/-- The instance `j` evaluates its own input (R86; log entry 14). -/
def stepInstance {n : Nat} (j : Fin n) (b : Bank n) : Host.Outcome (Bank n) Fault Refusal :=
  match step b[j] with
  | .next t => .next (b.set j t)
  | .fault r => .fault r
  | .refused r => .refused r

end Sys2Proof.Machine
end

