-- ==== Sys2Proof/Machine/Value.lean ====
section
/-! DEFINITION. Output patterns read as numbers (R9, R39, R68): the fields of a pattern, its exact value, and the host's
IEEE 754 equality. Interpreting the pattern is the host's (D11); the block moves bits. -/

namespace Sys2Proof.Machine

/-- `F[31]` (R39). -/
def outSign (F : Word32) : Bool := F.getLsbD 31

/-- `F[30:23]` (R39). -/
def outExponent (F : Word32) : BitVec 8 := F.extractLsb' 23 8

/-- `F[22:0]` (R39). -/
def outFraction (F : Word32) : BitVec 23 := F.extractLsb' 0 23

/-- The pattern with the given fields, `{S, E, f}` (R39). -/
def outWord (sign : Bool) (e : BitVec 8) (f : BitVec 23) : Word32 :=
  BitVec.ofBool sign ++ e ++ f

/-- `real(F)`, exactly, for the patterns R9 gives a number: exponent field 1 to 254, and +0. None for the others, which
the block never produces (R65). The formula is the spec's, from general knowledge (G1; log entry 12). -/
def realOf (F : Word32) : Option ℚ :=
  if F = 0x00000000#32 then some 0
  else if outExponent F = 0 ∨ outExponent F = 255#8 then none
  else
    some ((if outSign F then -1 else 1) * (1 + (outFraction F).toNat / 2 ^ 23)
      * (2 : ℚ) ^ ((outExponent F).toNat - 127 : ℤ))

/-- Whether the pattern is a NaN: exponent field 255 and a nonzero fraction. -/
def isNaN (F : Word32) : Bool := outExponent F == 255#8 && outFraction F != 0#23

/-- Whether the pattern is +0 or −0. -/
def isZeroPattern (F : Word32) : Bool := outExponent F == 0#8 && outFraction F == 0#23

/-- IEEE 754 equality of two patterns, under which +0 equals −0 and a NaN equals nothing (R68, D14, G3; log entry 12). -/
def ieeeEq (a b : Word32) : Bool :=
  !isNaN a && !isNaN b && (a == b || (isZeroPattern a && isZeroPattern b))

end Sys2Proof.Machine
end

