-- ==== Sys2Proof/Machine/Width.lean ====
section
/-! DEFINITION. DECODE on a datapath of any width `W`, as R57 describes it: the hardware form of the block may be narrower or
wider than the 32-bit reference. The machine uses the reference; this is what R57 compares it with. -/

namespace Sys2Proof.Machine

/-- The unwinder at width `W`: `neg_W` of the magnitude with ones from bit W−1 down to bit 12 (R7 `fill1`, R57). -/
def unwindAt (W : Nat) (sign : Bool) (mag1 : BitVec 12) : BitVec W :=
  if sign then -(mag1.setWidth W ||| (BitVec.allOnes W <<< 12)) else mag1.setWidth W

/-- The normalizer's loop at width `W`: the test is on bits W−1 down to 23 (R57). -/
def normalizeLoopAt (W : Nat) : Nat → BitVec W → BitVec 8 → BitVec W × BitVec 8
  | 0, mag4, exp2 => (mag4, exp2)
  | rounds + 1, mag4, exp2 =>
    if mag4 >>> 23 = 0#W then normalizeLoopAt W rounds (mag4 <<< 1) (exp2 - 1#8) else (mag4, exp2)

/-- DECODE with `mag2`, `mag3` and `mag4` of `W` bits (R57). -/
def hsnrToF32At (W : Nat) (h : Word16) : Word32 :=
  if isZero h then 0x00000000#32
  else
    let g := signals h
    let mag3 := unwindAt W (signFlag h) g.mag1 <<< preShiftDistance
    let n := normalizeLoopAt W W mag3 g.exp1
    pack (targetSign (signFlag h)) n.2 (n.1.setWidth 23)

end Sys2Proof.Machine
end

