-- ==== Sys2Proof/Safety.lean ====
section
/-! DEFINITION. The terms claims about HSNR2F32 are stated in: a settled output, a host that drives two-valued words only, the
invariant of a run, and an evaluation as the spec writes one down. -/

namespace Sys2Proof.Machine

/-- The output is DECODE of the word on the input (R21, R91). -/
abbrev Settled (s : State) : Prop := s.hsnrIn.word?.map hsnrToF32 = some s.f32Out

/-- Every input the host is still to present is two-valued: the host's one duty besides sampling late enough (R98). -/
abbrev HostTwoValued (s : State) : Prop := ∀ p ∈ s.pending, p.word?.isSome = true

/-- The invariant of a run: the output is settled and the host keeps its duty. -/
abbrev RunInv (s : State) : Prop := Settled s ∧ HostTwoValued s

/-- One evaluation as the spec writes it, `DECODE 0xHHHH -> 0xHHHHHHHH` (R42). -/
structure Evaluation where
  input : Word16
  output : Word32
deriving DecidableEq, Repr

/-- The evaluation is what the block does. -/
abbrev Evaluation.Holds (e : Evaluation) : Prop := hsnrToF32 e.input = e.output

/-- The constructors of class NORM_POS, each with its exponent (R36). -/
def normPosCtors : List (Nat × (Mantissa → Instr)) :=
  [(1, .normPosE1), (2, .normPosE2), (3, .normPosE3), (4, .normPosE4), (5, .normPosE5), (6, .normPosE6), (7, .normPosE7), (8, .normPosE8)] ++
  [(9, .normPosE9), (10, .normPosE10), (11, .normPosE11), (12, .normPosE12), (13, .normPosE13), (14, .normPosE14), (15, .normPosE15)]

/-- The constructors of class NORM_NEG, each with its exponent (R36). -/
def normNegCtors : List (Nat × (Mantissa → Instr)) :=
  [(1, .normNegE1), (2, .normNegE2), (3, .normNegE3), (4, .normNegE4), (5, .normNegE5), (6, .normNegE6), (7, .normNegE7), (8, .normNegE8)] ++
  [(9, .normNegE9), (10, .normNegE10), (11, .normNegE11), (12, .normNegE12), (13, .normNegE13), (14, .normNegE14), (15, .normNegE15)]

/-- The signals the class rules name for a word: `mag2`, the shift count `k` and `exp2`; none for the zero word. -/
def shiftTrace (h : Word16) : Option (Nat × Nat × Nat) :=
  (signals h).back.map fun b => ((signals h).mag2.toNat, b.normal.k.toNat, b.normal.exp2.toNat)

/-- The fraction field of a magnitude `a` whose highest bit becomes the hidden bit: `(a << (23 − msb(a)))[22:0]` (R40). -/
def placedFraction (a : Nat) : BitVec 23 := BitVec.ofNat 23 (a <<< (23 - msb a))

/-- A step is safe when it is no fault and no refusal. -/
def SafeStep (s : State) : Prop := ∃ t, step s = .next t

end Sys2Proof.Machine
end

