-- ==== Sys2Proof/Certificates/Slice0/Obligations.lean ====
section
/-! DEFINITION. What is claimed of HSNR2F32, each claim under the rule of spec/ it formalises. -/

open Sys2Proof Sys2Proof.Machine

/-! ### Encoding -/

/-- R31, R36: a few words written out bit by bit decode to the row they stand for. -/
def Obligations.WrittenOutWordsDecodeToTheirRows : Prop :=
  decode 0b0000000000000000#16 = .zero
  ∧ decode 0b0000000000000001#16 = .subPos 1
  ∧ decode 0b0000110000000000#16 = .subNeg 0x400
  ∧ decode 0b1111011100000000#16 = .normPosE15 0x700
  ∧ decode 0b1101100000000000#16 = .normNegE13 0
  ∧ decode 0b0001111111111111#16 = .normNegE1 0x7FF

/-- R31, R36: decoding the word of a well-formed instruction gives the instruction back, for every operand. -/
def Obligations.DecodeOfEncodeIsTheInstruction : Prop :=
  ∀ i : Instr, WellFormed i → decode (encode i) = i

/-- R37: every word stands for a well-formed instruction, whose word it is. -/
def Obligations.EncodeOfDecodeIsTheWord : Prop :=
  ∀ h : Word16, WellFormed (decode h) ∧ encode (decode h) = h

/-- Section 2 of 30_encoding.md: the decoder, which goes by fields, agrees with the opcode table's masks and matches tested
in order, and past ZERO the rows do not overlap. -/
def Obligations.DecodeIsTheFirstMatchingTableRow : Prop :=
  (∀ h : Word16, opcodeTable.find? (·.meets h) = some (decode h).row)
  ∧ ∀ h : Word16, h ≠ 0x0000#16 → opcodeTable.tail.filter (·.meets h) = [(decode h).row]

/-- R33 and the conditions of R36's table: the class of a word by its exponent field and its sign. -/
def Obligations.ClassFollowsExponentAndSign : Prop :=
  ∀ h : Word16,
    ((decode h).inputClass = .zero ↔ h = 0x0000#16)
    ∧ ((decode h).inputClass = .subPos ↔ expField h = 0 ∧ signField h = false ∧ h ≠ 0x0000#16)
    ∧ ((decode h).inputClass = .subNeg ↔ expField h = 0 ∧ signField h = true)
    ∧ ((decode h).inputClass = .normPos ↔ expField h ≠ 0 ∧ signField h = false)
    ∧ ((decode h).inputClass = .normNeg ↔ expField h ≠ 0 ∧ signField h = true)

/-! ### The input port and a step -/

/-- R23 for the input port: the port carries the word `h` exactly when pin `i` shows bit `i` of `h`. -/
def Obligations.PinCarriesItsBit : Prop :=
  ∀ (p : HsnrPort) (h : Word16),
    p.word? = some h ↔ ∀ i : Fin 16, p.pins[i] = if h.getLsbD i then Pin.high else Pin.low

/-- R89: a step refuses exactly the inputs with a pin that is not two-valued; every other input gets its step. -/
def Obligations.NonTwoValuedInputIsRefused : Prop :=
  ∀ s : State,
    (step s = .refused .nonTwoValuedInput
      ↔ ∃ i : Fin 16, s.presentNext.hsnrIn.pins[i] = .unknown ∨ s.presentNext.hsnrIn.pins[i] = .floating)
    ∧ ((∀ i : Fin 16, s.presentNext.hsnrIn.pins[i] = .low ∨ s.presentNext.hsnrIn.pins[i] = .high) → SafeStep s)

/-- A step presents the host's next input, or holds the present one, and runs the instruction its word decodes to. -/
def Obligations.StepRunsTheDecodedWord : Prop :=
  (∀ (s : State) (h : Word16), s.presentNext.hsnrIn.word? = some h → step s = exec (decode h) s.presentNext)
  ∧ (∀ s : State, s.pending = [] → s.presentNext = s)
  ∧ ∀ (s : State) (p : HsnrPort) (ps : List HsnrPort), s.pending = p :: ps →
      s.presentNext = { s with hsnrIn := p, pending := ps }

/-- The row "present a word" of R98: a word the host presents is on the input and its DECODE on the output after the
step, from any state; the words queued behind it wait. The queue is the model's (log entry 2). -/
def Obligations.PresentedWordIsConverted : Prop :=
  ∀ (s : State) (w : Nat), w < 2 ^ 16 →
    step (s.withFetchWord 16 w)
      = .next { s with hsnrIn := HsnrPort.ofWord (BitVec.ofNat 16 w), f32Out := hsnrToF32 (BitVec.ofNat 16 w) }

/-- R11, R15: an instruction always completes, and changes nothing but the output: the input, and what the host is still
to present, stay. The output it leaves does not depend on the state it starts from. -/
def Obligations.InstructionChangesOnlyTheOutput : Prop :=
  ∀ (i : Instr) (s : State), ∃ t, exec i s = .next t
    ∧ t.hsnrIn = s.hsnrIn ∧ t.pending = s.pending
    ∧ ∀ s' t' : State, exec i s' = .next t' → t'.f32Out = t.f32Out

/-! ### The classes -/

/-- R58 and R32: DECODE.ZERO gives +0, changing nothing else; no other word gives a zero of either sign, and no
normalizer runs. -/
def Obligations.ZeroGivesPlusZeroAlone : Prop :=
  Instr.zero.row = ⟨"DECODE.ZERO", 0xFFFF#16, 0x0000#16⟩
  ∧ decode 0x0000#16 = .zero
  ∧ (∀ s : State, exec .zero s = .next { s with f32Out := 0x00000000#32 })
  ∧ hsnrToF32 0x0000#16 = 0x00000000#32
  ∧ (signals 0x0000#16).back = none
  ∧ (∀ h : Word16, isZeroPattern (hsnrToF32 h) = true → h = 0x0000#16)
  ∧ ∀ h : Word16, hsnrToF32 h ≠ 0x80000000#32

/-- R59: DECODE.SUB_POS, for every nonzero mantissa and every state. -/
def Obligations.SubPosResult : Prop :=
  (∀ (m : Mantissa) (s : State), m ≠ 0 →
    let h := inputWord 0#4 false m
    let k := 12 - msb m.toNat
    (Instr.subPos m).row = ⟨"DECODE.SUB_POS", 0xF800#16, 0x0000#16⟩
    ∧ decode h = .subPos m
    ∧ exec (.subPos m) s
        = .next { s with f32Out := outWord false (BitVec.ofNat 8 (115 - k)) (placedFraction m.toNat) }
    ∧ shiftTrace h = some (m.toNat, k, 115 - k)
    ∧ realOf (hsnrToF32 h) = some (m.toNat * (2 : ℚ) ^ (-24 : ℤ))
    ∧ (signals h).mag1.getLsbD 11 = false)
  ∧ hsnrToF32 0x0001#16 = 0x33800000#32
  ∧ shiftTrace 0x0001#16 = some (1, 12, 103)
  ∧ (∀ (h : Word16) (q : ℚ), realOf (hsnrToF32 h) = some q → 0 < q → (2 : ℚ) ^ (-24 : ℤ) ≤ q)
  ∧ (∀ h : Word16, ∀ x ∈ shiftTrace h, x.2.1 ≤ 12)
  ∧ shiftTrace 0x07FF#16 = some (2047, 2, 113)
  ∧ realOf (hsnrToF32 0x07FF#16) = some (2047 * (2 : ℚ) ^ (-24 : ℤ))
  ∧ ∀ m : Mantissa, m ≠ 0 → ∀ q : ℚ, realOf (hsnrToF32 (inputWord 0#4 false m)) = some q →
      q ≤ 2047 * (2 : ℚ) ^ (-24 : ℤ)

/-- R60: DECODE.SUB_NEG, for every mantissa and every state. -/
def Obligations.SubNegResult : Prop :=
  (∀ (m : Mantissa) (s : State),
    let h := inputWord 0#4 true m
    let a := 2048 - m.toNat
    let k := 12 - msb a
    (Instr.subNeg m).row = ⟨"DECODE.SUB_NEG", 0xF800#16, 0x0800#16⟩
    ∧ decode h = .subNeg m
    ∧ exec (.subNeg m) s = .next { s with f32Out := outWord true (BitVec.ofNat 8 (115 - k)) (placedFraction a) }
    ∧ shiftTrace h = some (a, k, 115 - k)
    ∧ realOf (hsnrToF32 h) = some (-(2048 - (m.toNat : ℚ)) * (2 : ℚ) ^ (-24 : ℤ))
    ∧ realOf (hsnrToF32 h) = some ((groupField h).toInt * (2 : ℚ) ^ (-24 : ℤ)))
  ∧ hsnrToF32 0x0800#16 = 0xB9000000#32
  ∧ realOf 0xB9000000#32 = some (-((2 : ℚ) ^ (-13 : ℤ)))
  ∧ shiftTrace 0x0800#16 = some (2048, 1, 114)
  ∧ (∀ h : Word16, expField h = 0 → ∀ q : ℚ, realOf (hsnrToF32 h) = some q → -((2 : ℚ) ^ (-13 : ℤ)) ≤ q)
  ∧ hsnrToF32 0x0FFF#16 = 0xB3800000#32
  ∧ realOf 0xB3800000#32 = some (-((2 : ℚ) ^ (-24 : ℤ)))
  ∧ shiftTrace 0x0FFF#16 = some (1, 12, 103)

/-- R61: the fifteen rows DECODE.NORM_POS.E1 to E15, for every mantissa and every state. -/
def Obligations.NormPosResult : Prop :=
  (∀ ec ∈ normPosCtors, ∀ (m : Mantissa) (s : State),
    let e := ec.1
    let h := inputWord (BitVec.ofNat 4 e) false m
    (ec.2 m).row.mask = 0xF800#16 ∧ (ec.2 m).row.matchBits = BitVec.ofNat 16 (e <<< 12)
    ∧ decode h = ec.2 m
    ∧ exec (ec.2 m) s
        = .next { s with f32Out := ((BitVec.ofNat 32 (e + 113)) <<< 23) ||| (m.setWidth 32 <<< 12) }
    ∧ hsnrToF32 h = outWord false (BitVec.ofNat 8 (e + 113)) (m ++ 0#12)
    ∧ shiftTrace h = some (2048 + m.toNat, 1, e + 113)
    ∧ realOf (hsnrToF32 h) = some ((2048 + m.toNat) * (2 : ℚ) ^ ((e : ℤ) - 25))
    ∧ realOf (hsnrToF32 h) = some ((1 + m.toNat / 2048) * (2 : ℚ) ^ ((e : ℤ) - 14)))
  ∧ realOf (hsnrToF32 0x1000#16) = some ((2 : ℚ) ^ (-13 : ℤ))
  ∧ (∀ h : Word16, expField h ≠ 0 → ∀ q : ℚ, realOf (hsnrToF32 h) = some q → 0 < q → (2 : ℚ) ^ (-13 : ℤ) ≤ q)
  ∧ hsnrToF32 0xF7FF#16 = 0x407FF000#32
  ∧ realOf (hsnrToF32 0xF7FF#16) = some (4095 * (2 : ℚ) ^ (-10 : ℤ))
  ∧ (∀ (h : Word16) (q : ℚ), realOf (hsnrToF32 h) = some q → q ≤ 4095 * (2 : ℚ) ^ (-10 : ℤ))
  ∧ hsnrToF32 0xE000#16 = 0x3F800000#32

/-- R62: the fifteen rows DECODE.NORM_NEG.E1 to E15, for every mantissa and every state. -/
def Obligations.NormNegResult : Prop :=
  (∀ ec ∈ normNegCtors, ∀ (m : Mantissa) (s : State),
    let e := ec.1
    let h := inputWord (BitVec.ofNat 4 e) true m
    let a := 4096 - m.toNat
    (ec.2 m).row.mask = 0xF800#16 ∧ (ec.2 m).row.matchBits = BitVec.ofNat 16 ((e <<< 12) ||| 0x0800)
    ∧ decode h = ec.2 m
    ∧ exec (ec.2 m) s = .next { s with
        f32Out := if m = 0 then outWord true (BitVec.ofNat 8 (e + 114)) 0#23
          else outWord true (BitVec.ofNat 8 (e + 113)) (BitVec.ofNat 23 (a <<< 12)) }
    ∧ shiftTrace h = some (if m = 0 then (4096, 0, e + 114) else (a, 1, e + 113))
    ∧ realOf (hsnrToF32 h) = some (-(4096 - (m.toNat : ℚ)) * (2 : ℚ) ^ ((e : ℤ) - 25))
    ∧ (m = 0 → realOf (hsnrToF32 h) = some (-((2 : ℚ) ^ ((e : ℤ) - 13)))))
  ∧ (∀ h : Word16, ∀ x ∈ shiftTrace h, x.2.1 = 0 → expField h ≠ 0 ∧ signField h = true ∧ mantField h = 0)
  ∧ hsnrToF32 0xF800#16 = 0xC0800000#32
  ∧ realOf 0xC0800000#32 = some (-4)
  ∧ (∀ (h : Word16) (q : ℚ), realOf (hsnrToF32 h) = some q → -4 ≤ q)
  ∧ hsnrToF32 0xF801#16 = 0xC07FF000#32
  ∧ realOf 0xC07FF000#32 = some (-(4095 * (2 : ℚ) ^ (-10 : ℤ)))
  ∧ hsnrToF32 0x1FFF#16 = 0xB9001000#32
  ∧ realOf 0xB9001000#32 = some (-(2049 * (2 : ℚ) ^ (-24 : ℤ)))
  ∧ hsnrToF32 0xD800#16 = 0xBF800000#32

/-! ### The stages -/

/-- From sections 2.1 of 40_decode.md and 3 of 60_exceptions.md: the bypass takes precedence for the zero word and the
packer's output is used for every other; without the bypass the normalizer's loop would never end, since a zero magnitude
never reaches its exit. That the signals past the normalizer have no value for exactly the zero word (`back` is none) is
the model's choice, log entry 7. -/
def Obligations.ZeroBypassTakesPrecedence : Prop :=
  hsnrToF32 0x0000#16 = 0x00000000#32
  ∧ (∀ h : Word16, (signals h).back = none ↔ h = 0x0000#16)
  ∧ (∀ (h : Word16) (b : BackSignals), (signals h).back = some b → hsnrToF32 h = b.packed)
  ∧ (signals 0x0000#16).mag2 = 0
  ∧ ∀ (rounds : Nat) (exp1 : BitVec 8) (k : BitVec 4),
      (normalizeLoop rounds ⟨preShift 0#32, exp1, k⟩).mag4 &&& leadingBitTestMask = 0#32

/-- R45, R48: the extracted fields are the word's bits 11, 15..12 and 11..0. -/
def Obligations.FieldsAreTheWordsBits : Prop :=
  ∀ h : Word16,
    (signals h).signFlag = h.getLsbD 11
    ∧ (signals h).rawExponent.toNat = h.toNat / 2 ^ 12
    ∧ (signals h).mag0.toNat = h.toNat % 2 ^ 12

/-- R46: `target_sign` by the sign flag, and the output's sign bit is the input's bit 11. -/
def Obligations.OutputSignIsInputBitEleven : Prop :=
  ∀ h : Word16,
    (signals h).targetSign = (if h.getLsbD 11 then 0x80000000#32 else 0#32)
    ∧ (h ≠ 0x0000#16 → (hsnrToF32 h).getLsbD 31 = h.getLsbD 11)

/-- R47: the exponent base, and no exponent wire ever wraps: all stay in 103..129. -/
def Obligations.ExponentWiresStayInRange : Prop :=
  ∀ h : Word16,
    (signals h).exp0.toNat = (expField h).toNat + 114
    ∧ 114 ≤ (signals h).exp0.toNat ∧ (signals h).exp0.toNat ≤ 129
    ∧ 115 ≤ (signals h).exp1.toNat ∧ (signals h).exp1.toNat ≤ 129
    ∧ ∀ b ∈ (signals h).back,
        b.normal.exp2.toNat + b.normal.k.toNat = (signals h).exp1.toNat
        ∧ 103 ≤ b.normal.exp2.toNat ∧ b.normal.exp2.toNat ≤ 129

/-- R49: the regime multiplexer, and the two regimes' one scale at the seam. -/
def Obligations.RegimeMultiplexerSelects : Prop :=
  ∀ h : Word16,
    (expField h = 0 → (signals h).exp1 = (signals h).exp0 + 1 ∧ (signals h).exp1 = 115#8
      ∧ (signals h).mag1 = (signals h).mag0)
    ∧ (expField h ≠ 0 → (signals h).exp1 = (signals h).exp0
      ∧ 115 ≤ (signals h).exp1.toNat ∧ (signals h).exp1.toNat ≤ 129
      ∧ (signals h).mag1 = (signals h).mag0 ^^^ 0x800#12
      ∧ (signals h).mag1 = if h.getLsbD 11 then (mantField h).setWidth 12 else 0x800#12 ||| (mantField h).setWidth 12)
    ∧ (expField h = 1 → (signals h).exp1 = 115#8)

/-- R50: the unwinder fills with ones whatever bit 11 is, so its result for a negative word is `4096 − mag1`; copying bit
11 would lose 0xD800. -/
def Obligations.UnwinderNegatesWithOnesFill : Prop :=
  (∀ mag1 : BitVec 12,
    unwind true mag1 = -(mag1.setWidth 32 ||| 0xFFFFF000#32)
    ∧ (unwind true mag1).toNat = 4096 - mag1.toNat
    ∧ unwind false mag1 = mag1.setWidth 32)
  ∧ (∀ h : Word16, (signals h).mag2 = unwind (h.getLsbD 11) (signals h).mag1)
  ∧ (∀ h : Word16, expField h ≠ 0 → signField h = true → (signals h).mag1.getLsbD 11 = false)
  ∧ (signals 0xD800#16).mag1 = 0 ∧ (signals 0xD800#16).mag2 = 0x1000#32 ∧ realOf (hsnrToF32 0xD800#16) = some (-1)

/-- R51: the unwinder's result is the absolute value of the integer significand; its range, per class. -/
def Obligations.UnwinderGivesAbsoluteSignificand : Prop :=
  (∀ h : Word16, h ≠ 0x0000#16 →
    (signals h).mag2.toNat = (significand h).natAbs
    ∧ 1 ≤ (signals h).mag2.toNat ∧ (signals h).mag2.toNat ≤ 4096
    ∧ ((signals h).mag2.toNat = 4096 ↔ expField h ≠ 0 ∧ signField h = true ∧ mantField h = 0))
  ∧ (∀ m : Mantissa, m ≠ 0 →
    (signals (inputWord 0#4 false m)).mag1 = m.setWidth 12
    ∧ (signals (inputWord 0#4 false m)).mag2.toNat = m.toNat)
  ∧ (∀ m : Mantissa,
    (signals (inputWord 0#4 true m)).mag1 = 0x800#12 ||| m.setWidth 12
    ∧ (signals (inputWord 0#4 true m)).mag2.toNat = 2048 - m.toNat)
  ∧ ∀ (e : BitVec 4) (m : Mantissa), e ≠ 0 →
    (signals (inputWord e false m)).mag1 = 0x800#12 ||| m.setWidth 12
    ∧ (signals (inputWord e false m)).mag2.toNat = 2048 + m.toNat
    ∧ (signals (inputWord e true m)).mag1 = m.setWidth 12
    ∧ (signals (inputWord e true m)).mag2.toNat = 4096 - m.toNat

/-- R52: the pre-shift loses no bit. -/
def Obligations.PreShiftLosesNoBit : Prop :=
  ∀ h : Word16, h ≠ 0x0000#16 →
    (signals h).mag3 = (signals h).mag2 <<< 11
    ∧ (signals h).mag3.toNat = (signals h).mag2.toNat * 2 ^ 11
    ∧ (signals h).mag3.toNat ≤ 2 ^ 23
    ∧ msb (signals h).mag3.toNat = msb (signals h).mag2.toNat + 11
    ∧ 11 ≤ msb (signals h).mag3.toNat ∧ msb (signals h).mag3.toNat ≤ 23

/-- R53: the loop form. It shifts while bits 23 and above are clear, stops at the first count where they are not, with
bit 23 set and bits 31..24 clear, after at most 12 rounds; the model's bound on rounds (log entry 6) cuts nothing off. -/
def Obligations.NormalizerLoopStopsNormalized : Prop :=
  ∀ (mag2 : Word32) (exp1 : BitVec 8), 1 ≤ mag2.toNat → mag2.toNat ≤ 4096 →
    let n := normalize (preShift mag2) exp1
    n.mag4 = preShift mag2 <<< n.k.toNat
    ∧ n.exp2 = exp1 - n.k.setWidth 8
    ∧ n.k.toNat ≤ 12
    ∧ (∀ j < n.k.toNat, (preShift mag2 <<< j) &&& leadingBitTestMask = 0#32)
    ∧ n.mag4 &&& leadingBitTestMask ≠ 0#32
    ∧ n.mag4.getLsbD 23 = true ∧ n.mag4 >>> 24 = 0#32
    ∧ ∀ rounds, 12 ≤ rounds → normalizeLoop rounds ⟨preShift mag2, exp1, 0#4⟩ = n

/-- R54: the leading-one detector and barrel shifter give what the loop gives, and the shift count per class. -/
def Obligations.BarrelShifterEqualsLoop : Prop :=
  (∀ (mag2 : Word32) (exp1 : BitVec 8), 1 ≤ mag2.toNat → mag2.toNat ≤ 4096 →
    normalize (preShift mag2) exp1 = normalizeClosed mag2 (preShift mag2) exp1
    ∧ 12 - msb mag2.toNat = 23 - msb (preShift mag2).toNat)
  ∧ (∀ m : Mantissa, m ≠ 0 → ∀ x ∈ shiftTrace (inputWord 0#4 false m),
      x.2.1 = 12 - msb m.toNat ∧ 2 ≤ x.2.1 ∧ x.2.1 ≤ 12 ∧ (0x400 ≤ m.toNat → x.2.1 = 2))
  ∧ (∀ m : Mantissa, ∀ x ∈ shiftTrace (inputWord 0#4 true m),
      x.2.1 = 12 - msb (2048 - m.toNat) ∧ 1 ≤ x.2.1 ∧ x.2.1 ≤ 12)
  ∧ (∀ (e : BitVec 4) (m : Mantissa), e ≠ 0 →
      (∀ x ∈ shiftTrace (inputWord e false m), x.2.1 = 1)
      ∧ ∀ x ∈ shiftTrace (inputWord e true m), x.2.1 = if m = 0 then 0 else 1)
  ∧ (shiftTrace 0x0001#16).map (·.2.1) = some 12
  ∧ (shiftTrace 0x0FFF#16).map (·.2.1) = some 12
  ∧ (shiftTrace 0x0800#16).map (·.2.1) = some 1

/-- R55, R56: the hidden bit is removed and the three fields are concatenated, losing nothing. -/
def Obligations.PackerConcatenatesFields : Prop :=
  ∀ (h : Word16) (b : BackSignals), (signals h).back = some b →
    b.frac.setWidth 32 = b.normal.mag4 &&& 0x007FFFFF#32
    ∧ b.normal.mag4.toNat = 2 ^ 23 + b.frac.toNat
    ∧ hsnrToF32 h = (signals h).targetSign ||| (b.normal.exp2.setWidth 32 <<< 23) ||| b.frac.setWidth 32
    ∧ hsnrToF32 h = BitVec.ofBool (h.getLsbD 11) ++ b.normal.exp2 ++ b.frac

/-- R57: every working width of 24 bits or more gives the same output for every input. -/
def Obligations.WorkingWidthDoesNotMatter : Prop :=
  ∀ (W : Nat) (h : Word16), 24 ≤ W → hsnrToF32At W h = hsnrToF32 h

/-! ### Numeric laws -/

/-- R34, R35: the integer a word stands for in each regime, its range, and the value it gives. -/
def Obligations.SignificandByRegime : Prop :=
  ∀ h : Word16,
    (expField h = 0 →
      significand h = (groupField h).toInt
      ∧ -2048 ≤ significand h ∧ significand h ≤ 2047
      ∧ realOf (hsnrToF32 h) = some (significand h * (2 : ℚ) ^ (-24 : ℤ)))
    ∧ (expField h ≠ 0 →
      significand h = (BitVec.ofBool (h.getLsbD 11) ++ BitVec.ofBool (!h.getLsbD 11) ++ mantField h).toInt
      ∧ (h.getLsbD 11 = false → significand h = 2048 + (mantField h).toNat
          ∧ 2048 ≤ significand h ∧ significand h ≤ 4095)
      ∧ (h.getLsbD 11 = true → significand h = (mantField h).toNat - 4096
          ∧ -4096 ≤ significand h ∧ significand h ≤ -2049)
      ∧ realOf (hsnrToF32 h) = some (significand h * (2 : ℚ) ^ ((expField h).toNat - 25 : ℤ)))

/-- R63, R64: the exact value of every output, which needs at most 12 significand bits, and the bands of integers each
exponent covers. -/
def Obligations.OutputIsExactlyTheScaledSignificand : Prop :=
  (∀ h : Word16,
    realOf (hsnrToF32 h) = some (significand h * (2 : ℚ) ^ ((max (expField h).toNat 1 : Nat) - 25 : ℤ)))
  ∧ (∀ h : Word16, (significand h).natAbs ≤ 4096 ∧ hsnrToF32 h &&& 0xFFF#32 = 0#32)
  ∧ (∀ v : Int, (∃ h : Word16, expField h = 0 ∧ significand h = v) ↔ -2048 ≤ v ∧ v ≤ 2047)
  ∧ ∀ (e : BitVec 4) (v : Int), e ≠ 0 →
      ((∃ h : Word16, expField h = e ∧ significand h = v) ↔ (2048 ≤ v ∧ v ≤ 4095) ∨ (-4096 ≤ v ∧ v ≤ -2049))

/-- R40: the output's fields per class. -/
def Obligations.OutputFieldsPerClass : Prop :=
  hsnrToF32 0x0000#16 = outWord false 0#8 0#23
  ∧ (∀ h : Word16, h ≠ 0x0000#16 →
    let F := hsnrToF32 h
    let a := (significand h).natAbs
    let e := (expField h).toNat
    outSign F = signField h
    ∧ (expField h = 0 →
        (outExponent F).toNat = 103 + msb a ∧ outFraction F = placedFraction a
        ∧ (outExponent F).toNat ≤ (if signField h then 114 else 113))
    ∧ (expField h ≠ 0 → signField h = false →
        (outExponent F).toNat = e + 113 ∧ outFraction F = (mantField h).setWidth 23 <<< 12)
    ∧ (expField h ≠ 0 → signField h = true → mantField h = 0 →
        (outExponent F).toNat = e + 114 ∧ outFraction F = 0#23)
    ∧ (expField h ≠ 0 → signField h = true → mantField h ≠ 0 →
        (outExponent F).toNat = e + 113
        ∧ outFraction F = BitVec.ofNat 23 ((4096 - (mantField h).toNat) <<< 12))
    ∧ 103 ≤ (outExponent F).toNat ∧ (outExponent F).toNat ≤ 129)
  ∧ (∀ h : Word16, hsnrToF32 h ≠ 0x80000000#32 ∧ hsnrToF32 h &&& 0xFFF#32 = 0#32)
  ∧ (hsnrToF32 0xF7FF#16).getLsbD 12 = true

/-- R65: every output is a normal number or +0, of magnitude 2^−24 to 4; the extremes; the set of outputs is not closed
under negation. -/
def Obligations.OutputRange : Prop :=
  (∀ h : Word16, h ≠ 0x0000#16 →
    103 ≤ (outExponent (hsnrToF32 h)).toNat ∧ (outExponent (hsnrToF32 h)).toNat ≤ 129
    ∧ ∃ q : ℚ, realOf (hsnrToF32 h) = some q ∧ (2 : ℚ) ^ (-24 : ℤ) ≤ |q| ∧ |q| ≤ 4
        ∧ q ≤ 4095 / 1024 ∧ -4 ≤ q)
  ∧ hsnrToF32 0x0000#16 = 0x00000000#32
  ∧ realOf (hsnrToF32 0xF7FF#16) = some (4095 / 1024)
  ∧ realOf (hsnrToF32 0xF800#16) = some (-4)
  ∧ realOf 0x40800000#32 = some 4
  ∧ ∀ h : Word16, hsnrToF32 h ≠ 0x40800000#32

/-- R66: distinct inputs give distinct outputs. -/
def Obligations.DistinctInputsGiveDistinctOutputs : Prop :=
  ∀ h h' : Word16, hsnrToF32 h = hsnrToF32 h' → h = h'

/-- R67: the output after a step depends on the input word alone, whatever else the two states hold. -/
def Obligations.OutputDependsOnTheInputAlone : Prop :=
  ∀ s s' t t' : State, s.presentNext.hsnrIn = s'.presentNext.hsnrIn →
    step s = .next t → step s' = .next t' → t.f32Out = t'.f32Out

/-- R68: complementation in the subnormal regime, bit for bit for `j` in 1..0x7FF and under IEEE 754 equality only at
`j = 0`. -/
def Obligations.SubnormalComplementation : Prop :=
  (∀ j : Word16, 1 ≤ j.toNat → j.toNat ≤ 0x7FF →
    hsnrToF32 (-j &&& 0x0FFF#16) = hsnrToF32 j ^^^ 0x80000000#32)
  ∧ hsnrToF32 (-0x0000#16 &&& 0x0FFF#16) = 0x00000000#32
  ∧ hsnrToF32 0x0000#16 ^^^ 0x80000000#32 = 0x80000000#32
  ∧ ieeeEq (hsnrToF32 (-0x0000#16 &&& 0x0FFF#16)) (hsnrToF32 0x0000#16 ^^^ 0x80000000#32) = true

/-- R69: complementation in the normalized regime, both directions, and the one word without a counterpart. -/
def Obligations.NormalizedComplementation : Prop :=
  (∀ e : BitVec 4, e ≠ 0 →
    let E := e.setWidth 16 <<< 12
    (∀ j : Word16, 1 ≤ j.toNat → j.toNat ≤ 0x7FF →
      hsnrToF32 ((-j &&& 0x0FFF#16) ||| E) = hsnrToF32 (j ||| E) ^^^ 0x80000000#32)
    ∧ hsnrToF32 ((E - 0x1000#16) ||| 0x0800#16) = hsnrToF32 E ^^^ 0x80000000#32
    ∧ (e.toNat ≤ 14 → hsnrToF32 (E ||| 0x0800#16) = hsnrToF32 (E + 0x1000#16) ^^^ 0x80000000#32))
  ∧ ∀ h : Word16, hsnrToF32 h ≠ hsnrToF32 0xF800#16 ^^^ 0x80000000#32

/-- Section 4 of 40_decode.md, boundary additivity, in exact arithmetic: the three sums the host would form. (Binary32
addition gives the exact result where that result is a binary32 number, which is the host's arithmetic and not modelled.) -/
def Obligations.BoundarySumsAreExact : Prop :=
  ∃ a b c d f g : ℚ,
    realOf (hsnrToF32 0x1000#16) = some a ∧ realOf (hsnrToF32 0x0001#16) = some b
    ∧ realOf (hsnrToF32 0x1001#16) = some (a + b)
    ∧ realOf (hsnrToF32 0x1400#16) = some c ∧ realOf (hsnrToF32 0x0400#16) = some d ∧ c - a = d
    ∧ realOf (hsnrToF32 0x17FF#16) = some f ∧ realOf (hsnrToF32 0x07FF#16) = some g ∧ f - a = g

/-- R71: every word has a defined, finite output, the loop runs at most 12 times, and the machine gives that output
from any state that presents the word. -/
def Obligations.EveryWordHasAFiniteOutput : Prop :=
  ∀ h : Word16,
    outExponent (hsnrToF32 h) ≠ 255#8
    ∧ (∃ q : ℚ, realOf (hsnrToF32 h) = some q)
    ∧ (∀ b ∈ (signals h).back, b.normal.k.toNat ≤ 12 ∧ b.normal.mag4 &&& leadingBitTestMask ≠ 0#32)
    ∧ ∀ s : State, s.presentNext.hsnrIn.word? = some h → ∃ t, step s = .next t ∧ t.f32Out = hsnrToF32 h

/-! ### Runs -/

/-- R91: the output is DECODE of the input at power-up and after every step, from whatever state; and the first
conversion is not lost. (The input word at power-up is the model's choice, log entry 3; that its DECODE is on the output
is the rule's.) -/
def Obligations.EveryStepSettlesTheOutput : Prop :=
  Settled State.reset
  ∧ (∀ s t : State, step s = .next t → Settled t)
  ∧ ∀ w : Word16, ∃ t, step (State.reset.enqueueFirst (HsnrPort.ofWord w)) = .next t ∧ t.f32Out = hsnrToF32 w

/-- The run invariant holds at power-up (the input word there is the model's choice, log entry 3). -/
def Obligations.PowerUpMeetsRunInv : Prop := RunInv State.reset

/-- The run invariant is kept: from every state that meets it, a step that answers a next state answers one that meets
it. (The host's queue that it speaks of is the model's, log entry 2.) -/
def Obligations.StepKeepsRunInv : Prop :=
  ∀ s t : State, RunInv s → step s = .next t → RunInv t

/-- R18, R98: while its host presents two-valued words the converter never stops, for any number of evaluations, and its
output stays settled. (The host's queue, and the input held once it is empty, are the model's, log entry 2.) -/
def Obligations.RunWithTwoValuedInputsNeverStops : Prop :=
  ∀ (k : Nat) (s : State), RunInv s → ∃ t : State, Host.Core.run core k s = .next t ∧ RunInv t

/-- R28, R95, R42: whatever the state and however many words went before, after the host has presented a sequence of words
the output is DECODE of the last of them alone. The queue, its one step per word and its being empty afterwards are the
model's choice, log entry 2. -/
def Obligations.SequenceLeavesDecodeOfTheLastWord : Prop :=
  ∀ (s : State) (ws : List Word16) (w : Word16),
    Host.Core.run core (ws.length + 1) { s with pending := (ws ++ [w]).map HsnrPort.ofWord }
      = .next { hsnrIn := HsnrPort.ofWord w, f32Out := hsnrToF32 w, pending := [] }

/-- R25: an evaluation is idempotent: while the host holds its input, evaluating again changes nothing. (That a step with
nothing queued evaluates the held input is the model's, log entry 2.) -/
def Obligations.HeldInputGivesTheSameOutput : Prop :=
  ∀ s t : State, s.pending = [] → step s = .next t → step t = .next t

/-- The sampling duty of R94: a host that samples after `T_PD` reads DECODE of the word it holds; before that the model
shows it no value (log entry 8). -/
def Obligations.SampleAfterSettlingReadsDecode : Prop :=
  ∀ (s : State) (h : Word16) (stableFor : Nat), Settled s → s.hsnrIn.word? = some h →
    s.sample stableFor = if Config.tPD ≤ stableFor then some (hsnrToF32 h) else none

/-- R28, R86: an evaluation of one instance is a step of that instance and leaves every other as it was, and two
instances' evaluations come to the same in either order. -/
def Obligations.InstancesAreIndependent : Prop :=
  ∀ (n : Nat) (b b' : Bank n) (j : Fin n), stepInstance j b = .next b' →
    (step b[j] = .next b'[j] ∧ ∀ k : Fin n, k ≠ j → b'[k] = b[k])
    ∧ ∀ (k : Fin n) (d : Bank n), k ≠ j → stepInstance k b' = .next d →
        ∃ d' : Bank n, stepInstance k b = .next d' ∧ stepInstance j d' = .next d
end

