-- ==== Sys2Proof/Laws/Decode.lean ====
section
/-! SUPPORT. Fields and input words take each other apart and together; reading the port gives back the word driven on it;
the port has no word exactly when some pin is not two-valued. -/

namespace Sys2Proof

/-! ### Fields -/

/-- The bits of an input word, field by field (R31). -/
theorem inputWord_getLsbD (e : BitVec 4) (s : Bool) (m : Mantissa) (i : Nat) :
    (inputWord e s m).getLsbD i = if i < 11 then m.getLsbD i else if i = 11 then s else e.getLsbD (i - 12) := by
  have h : (inputWord e s m).getLsbD i = BitVec.getLsbD (w := 4 + 1 + 11) (e ++ BitVec.ofBool s ++ m) i := rfl
  rw [h, BitVec.getLsbD_append, BitVec.getLsbD_append]
  by_cases h1 : i < 11
  · simp [h1]
  · by_cases h2 : i = 11
    · subst h2; cases s <;> simp
    · have h3 : ¬ (i - 11 < 1) := by omega
      simp [h1, h2, h3, Nat.sub_sub]

@[simp] theorem expField_inputWord (e : BitVec 4) (s : Bool) (m : Mantissa) : expField (inputWord e s m) = e := by
  apply BitVec.eq_of_getLsbD_eq
  intro i hi
  simp only [expField, BitVec.getLsbD_extractLsb', inputWord_getLsbD]
  have h1 : ¬ (12 + i < 11) := by omega
  have h2 : ¬ (12 + i = 11) := by omega
  simp [hi, h1, h2]

@[simp] theorem signField_inputWord (e : BitVec 4) (s : Bool) (m : Mantissa) : signField (inputWord e s m) = s := by
  simp only [signField, inputWord_getLsbD]
  rfl

@[simp] theorem mantField_inputWord (e : BitVec 4) (s : Bool) (m : Mantissa) : mantField (inputWord e s m) = m := by
  apply BitVec.eq_of_getLsbD_eq
  intro i hi
  simp [mantField, inputWord_getLsbD, hi]

/-- Every word is the word of its own fields, so a claim about all words is one about all fields. -/
theorem inputWord_fields (h : Word16) : inputWord (expField h) (signField h) (mantField h) = h := by
  apply BitVec.eq_of_getLsbD_eq
  intro i hi
  rw [inputWord_getLsbD]
  simp only [expField, signField, mantField, BitVec.getLsbD_extractLsb']
  grind

/-- An input word is its exponent and sign in place, with the mantissa in the low bits. -/
theorem inputWord_eq_or (e : BitVec 4) (s : Bool) (m : Mantissa) :
    inputWord e s m = inputWord e s 0 ||| m.setWidth 16 := by
  apply BitVec.eq_of_getLsbD_eq
  intro i hi
  simp only [inputWord_getLsbD, BitVec.getLsbD_or, BitVec.getLsbD_setWidth]
  grind

/-- The encoder gives `{e, s, m}` for a row whose match bits hold `e` and `s`. -/
theorem encode_eq_inputWord {e : BitVec 4} {s : Bool} {i : Instr} (hr : i.row.matchBits = inputWord e s 0) :
    encode i = inputWord e s i.operand := by
  rw [encode, hr, ← inputWord_eq_or]

/-! ### The port -/

/-- A pin carries a bit exactly when it is low or high. -/
theorem Pin.bit?_isSome (p : Pin) : p.bit?.isSome = true ↔ p = .low ∨ p = .high := by
  cases p <;> simp [Pin.bit?]

/-- A row of pins has a number exactly when every pin carries a bit. -/
theorem pinsValue?_isSome (ps : List Pin) : (pinsValue? ps).isSome = true ↔ ∀ p ∈ ps, p.bit?.isSome = true := by
  induction ps with
  | nil => simp [pinsValue?]
  | cons p ps ih =>
    simp only [pinsValue?, List.mem_cons, forall_eq_or_imp, ← ih]
    cases p.bit? <;> cases pinsValue? ps <;> simp

/-- Driving a word on the port and reading it gives the word. -/
@[simp] theorem HsnrPort.word?_ofWord (h : Word16) : (HsnrPort.ofWord h).word? = some h := by
  have key : ∀ i, (bitPin h i).bit? = some (h.toNat / 2 ^ i % 2) := by
    intro i
    rw [← Nat.toNat_testBit, BitVec.testBit_toNat]
    unfold bitPin
    cases h.getLsbD i <;> rfl
  simp only [HsnrPort.word?, HsnrPort.ofWord, Vector.toList_mk, pinsValue?, key, Option.map_some, Option.some.injEq]
  apply BitVec.eq_of_toNat_eq
  have := h.isLt
  rw [BitVec.toNat_ofNat]
  omega

/-- The port's decoder gives the instruction of the word driven. -/
@[simp] theorem decodePort_ofWord (h : Word16) : decodePort (HsnrPort.ofWord h) = .ok (decode h) := by
  simp [decodePort]

end Sys2Proof
end

