-- ==== Sys2Proof/Laws/State.lean ====
section
/-! SUPPORT. What each operation on the ports does to each field of the state. -/

namespace Sys2Proof.Machine

@[simp] theorem State.showOutput_hsnrIn (F : Word32) (s : State) : (s.showOutput F).hsnrIn = s.hsnrIn := rfl
@[simp] theorem State.showOutput_f32Out (F : Word32) (s : State) : (s.showOutput F).f32Out = F := rfl
@[simp] theorem State.showOutput_pending (F : Word32) (s : State) : (s.showOutput F).pending = s.pending := rfl

@[simp] theorem State.evaluate_hsnrIn (h : Word16) (s : State) : (s.evaluate h).hsnrIn = s.hsnrIn := rfl
@[simp] theorem State.evaluate_f32Out (h : Word16) (s : State) : (s.evaluate h).f32Out = hsnrToF32 h := rfl
@[simp] theorem State.evaluate_pending (h : Word16) (s : State) : (s.evaluate h).pending = s.pending := rfl

@[simp] theorem State.enqueueFirst_hsnrIn (p : HsnrPort) (s : State) : (s.enqueueFirst p).hsnrIn = s.hsnrIn := rfl
@[simp] theorem State.enqueueFirst_f32Out (p : HsnrPort) (s : State) : (s.enqueueFirst p).f32Out = s.f32Out := rfl
@[simp] theorem State.enqueueFirst_pending (p : HsnrPort) (s : State) :
    (s.enqueueFirst p).pending = p :: s.pending := rfl

@[simp] theorem State.presentNext_f32Out (s : State) : s.presentNext.f32Out = s.f32Out := by
  unfold State.presentNext; split <;> rfl

@[simp] theorem State.presentNext_pending (s : State) : s.presentNext.pending = s.pending.tail := by
  unfold State.presentNext; split <;> simp_all

@[simp] theorem State.presentNext_hsnrIn (s : State) :
    s.presentNext.hsnrIn = s.pending.head?.getD s.hsnrIn := by
  unfold State.presentNext; split <;> simp_all

/-- Presenting after putting an input first drives exactly that input. -/
theorem State.presentNext_enqueueFirst (p : HsnrPort) (s : State) :
    (s.enqueueFirst p).presentNext = { s with hsnrIn := p } := rfl

/-- With nothing to present the host holds its input. -/
theorem State.presentNext_of_pending_nil (s : State) (hs : s.pending = []) : s.presentNext = s := by
  unfold State.presentNext; rw [hs]

end Sys2Proof.Machine
end

