-- ==== Sys2Proof/Laws/Ops.lean ====
section
/-! SUPPORT. One lemma per shared operation of the datapath, for later proofs to cite. -/

namespace Sys2Proof.Machine

/-! ### Stages -/

/-- The zero word takes the bypass (R44). -/
theorem signals_back_zero : (signals 0x0000#16).back = none := rfl

/-- Any other word goes through the normalizer and the packer (R79). -/
theorem signals_back_of_ne_zero {h : Word16} (hz : h ≠ 0x0000#16) :
    (signals h).back = some (backSignals (signals h).targetSign (signals h).mag3 (signals h).exp1) := by
  simp [signals, isZero, hz]

/-- DECODE of a nonzero word is the packer's output on the normalizer's (R56). -/
theorem hsnrToF32_of_ne_zero {h : Word16} (hz : h ≠ 0x0000#16) :
    hsnrToF32 h =
      pack (signals h).targetSign (normalize (signals h).mag3 (signals h).exp1).exp2
        (fraction (normalize (signals h).mag3 (signals h).exp1).mag4) := by
  simp [hsnrToF32, outputOf, signals_back_of_ne_zero hz, backSignals]

/-- One round of the normalizer's loop, while the leading bits are clear (R53). -/
theorem normalizeLoop_shift {rounds : Nat} {n : Normal} (hg : n.mag4 &&& leadingBitTestMask = 0#32) :
    normalizeLoop (rounds + 1) n = normalizeLoop rounds ⟨n.mag4 <<< 1, n.exp2 - 1#8, n.k + 1#4⟩ := by
  simp [normalizeLoop, hg]

/-- The loop stops where a leading bit is set, whatever rounds are left (R53). -/
theorem normalizeLoop_stop (rounds : Nat) {n : Normal} (hg : n.mag4 &&& leadingBitTestMask ≠ 0#32) :
    normalizeLoop rounds n = n := by
  cases rounds <;> simp [normalizeLoop, hg]

end Sys2Proof.Machine
end

