-- ==== Sys2Proof/Laws/PerInstr.lean ====
section
/-! SUPPORT. Claims made instruction by instruction. -/

/-- The word of an instruction meets the mask and match of the instruction's own row of the opcode table. -/
def Sys2Proof.Laws.RowMatch.Statement (i : Sys2Proof.Instr) : Prop :=
  Sys2Proof.encode i &&& i.row.mask = i.row.matchBits

namespace Sys2Proof.Laws.RowMatch

/-- A row that fixes bits 15..11 alone is met by its match bits with any mantissa below them. -/
theorem masked_inputWord (e : BitVec 4) (s : Bool) (m : Mantissa) :
    inputWord e s m &&& 0xF800#16 = inputWord e s 0 := by
  apply BitVec.eq_of_getLsbD_eq
  intro i hi
  rw [BitVec.getLsbD_and, inputWord_getLsbD, inputWord_getLsbD]
  have hm : (0xF800#16).getLsbD i = decide (11 ≤ i) := by
    revert i; decide
  grind

/-- The claim for a row that fixes bits 15..11 alone. -/
theorem of_fields (e : BitVec 4) (s : Bool) {i : Instr} (hm : i.row.mask = 0xF800#16)
    (hr : i.row.matchBits = inputWord e s 0) : Statement i := by
  rw [Statement, encode_eq_inputWord hr, hm, masked_inputWord, hr]

theorem zero : Statement .zero := by unfold Statement; decide

theorem subPos (m : Mantissa) : Statement (.subPos m) := of_fields 0#4 false rfl rfl
theorem subNeg (m : Mantissa) : Statement (.subNeg m) := of_fields 0#4 true rfl rfl
theorem normPosE1 (m : Mantissa) : Statement (.normPosE1 m) := of_fields 1#4 false rfl rfl
theorem normPosE2 (m : Mantissa) : Statement (.normPosE2 m) := of_fields 2#4 false rfl rfl
theorem normPosE3 (m : Mantissa) : Statement (.normPosE3 m) := of_fields 3#4 false rfl rfl
theorem normPosE4 (m : Mantissa) : Statement (.normPosE4 m) := of_fields 4#4 false rfl rfl
theorem normPosE5 (m : Mantissa) : Statement (.normPosE5 m) := of_fields 5#4 false rfl rfl
theorem normPosE6 (m : Mantissa) : Statement (.normPosE6 m) := of_fields 6#4 false rfl rfl
theorem normPosE7 (m : Mantissa) : Statement (.normPosE7 m) := of_fields 7#4 false rfl rfl
theorem normPosE8 (m : Mantissa) : Statement (.normPosE8 m) := of_fields 8#4 false rfl rfl
theorem normPosE9 (m : Mantissa) : Statement (.normPosE9 m) := of_fields 9#4 false rfl rfl
theorem normPosE10 (m : Mantissa) : Statement (.normPosE10 m) := of_fields 10#4 false rfl rfl
theorem normPosE11 (m : Mantissa) : Statement (.normPosE11 m) := of_fields 11#4 false rfl rfl
theorem normPosE12 (m : Mantissa) : Statement (.normPosE12 m) := of_fields 12#4 false rfl rfl
theorem normPosE13 (m : Mantissa) : Statement (.normPosE13 m) := of_fields 13#4 false rfl rfl
theorem normPosE14 (m : Mantissa) : Statement (.normPosE14 m) := of_fields 14#4 false rfl rfl
theorem normPosE15 (m : Mantissa) : Statement (.normPosE15 m) := of_fields 15#4 false rfl rfl
theorem normNegE1 (m : Mantissa) : Statement (.normNegE1 m) := of_fields 1#4 true rfl rfl
theorem normNegE2 (m : Mantissa) : Statement (.normNegE2 m) := of_fields 2#4 true rfl rfl
theorem normNegE3 (m : Mantissa) : Statement (.normNegE3 m) := of_fields 3#4 true rfl rfl
theorem normNegE4 (m : Mantissa) : Statement (.normNegE4 m) := of_fields 4#4 true rfl rfl
theorem normNegE5 (m : Mantissa) : Statement (.normNegE5 m) := of_fields 5#4 true rfl rfl
theorem normNegE6 (m : Mantissa) : Statement (.normNegE6 m) := of_fields 6#4 true rfl rfl
theorem normNegE7 (m : Mantissa) : Statement (.normNegE7 m) := of_fields 7#4 true rfl rfl
theorem normNegE8 (m : Mantissa) : Statement (.normNegE8 m) := of_fields 8#4 true rfl rfl
theorem normNegE9 (m : Mantissa) : Statement (.normNegE9 m) := of_fields 9#4 true rfl rfl
theorem normNegE10 (m : Mantissa) : Statement (.normNegE10 m) := of_fields 10#4 true rfl rfl
theorem normNegE11 (m : Mantissa) : Statement (.normNegE11 m) := of_fields 11#4 true rfl rfl
theorem normNegE12 (m : Mantissa) : Statement (.normNegE12 m) := of_fields 12#4 true rfl rfl
theorem normNegE13 (m : Mantissa) : Statement (.normNegE13 m) := of_fields 13#4 true rfl rfl
theorem normNegE14 (m : Mantissa) : Statement (.normNegE14 m) := of_fields 14#4 true rfl rfl
theorem normNegE15 (m : Mantissa) : Statement (.normNegE15 m) := of_fields 15#4 true rfl rfl

end Sys2Proof.Laws.RowMatch
end

