-- ==== Sys2Proof/Laws/Step.lean ====
section
/-! SUPPORT. Everything an instruction and a step can do, said once. -/

namespace Sys2Proof.Machine

/-- Every instruction is one evaluation of its own word, and stops nowhere. -/
theorem exec_eq_evaluate (i : Instr) (s : State) : exec i s = .next (s.evaluate (encode i)) := by
  cases i <;> rfl

/-- A step that answers a next state has read a word off its port and evaluated it. -/
theorem step_next_cases {s t : State} (hst : step s = .next t) :
    ∃ h, s.presentNext.hsnrIn.word? = some h ∧ t = s.presentNext.evaluate (encode (decode h)) := by
  unfold step decodePort at hst
  split at hst
  · next i hi =>
    split at hi
    · next h hw =>
      cases hi
      rw [exec_eq_evaluate] at hst
      exact ⟨h, hw, by cases hst; rfl⟩
    · cases hi
  · cases hst

/-- A step that stops has been given an input that is not two-valued. -/
theorem step_refused_cases {s : State} {r : Refusal} (hst : step s = .refused r) :
    r = .nonTwoValuedInput ∧ s.presentNext.hsnrIn.word? = none := by
  unfold step decodePort at hst
  split at hst
  · rw [exec_eq_evaluate] at hst; cases hst
  · next hi =>
    split at hi
    · cases hi
    · next hw => cases hst; exact ⟨rfl, hw⟩

/-- What fetching a table word presents. -/
theorem presentNext_withFetchWord (s : State) (nbits w : Nat) :
    (s.withFetchWord nbits w).presentNext
      = { s with hsnrIn := HsnrPort.ofWord (BitVec.ofNat 16 (w % 2 ^ nbits)) } := rfl

end Sys2Proof.Machine
end

