-- ==== Sys2Proof/Tests/Slice0.lean ====
section
/-! SUPPORT. Tests against words and patterns written in spec/ (30_encoding.md, 95_test_vectors.md), and a witness for the
hypotheses of every statement that has some. -/

namespace Sys2Proof.Tests

open Sys2Proof.Machine

/-! ### WellFormed -/

theorem test_wellFormed_refuses_subPos_zero : ¬ WellFormed (.subPos 0) := by decide

theorem test_wellFormed_takes_subPos_one : WellFormed (.subPos 1) ∧ WellFormed .zero := by decide

/-! ### Decoding: one word per row, written out from `eeeesmmmmmmmmmmm` (R31) -/

theorem test_decode_subnormal_rows :
    [0b0000000000000000#16, 0b0000001010100101#16, 0b0000101010100101#16].map decode
      = [.zero, .subPos 0x2A5, .subNeg 0x2A5] := by decide

theorem test_decode_normPos_rows_low :
    [0b0001010000000001#16, 0b0010010000000001#16, 0b0011010000000001#16, 0b0100010000000001#16,
     0b0101010000000001#16, 0b0110010000000001#16, 0b0111010000000001#16, 0b1000010000000001#16].map decode
      = [.normPosE1 0x401, .normPosE2 0x401, .normPosE3 0x401, .normPosE4 0x401,
         .normPosE5 0x401, .normPosE6 0x401, .normPosE7 0x401, .normPosE8 0x401] := by decide

theorem test_decode_normPos_rows_high :
    [0b1001000000110001#16, 0b1010000000110001#16, 0b1011000000110001#16, 0b1100000000110001#16,
     0b1101000000110001#16, 0b1110000000110001#16, 0b1111000000110001#16].map decode
      = [.normPosE9 0x31, .normPosE10 0x31, .normPosE11 0x31, .normPosE12 0x31,
         .normPosE13 0x31, .normPosE14 0x31, .normPosE15 0x31] := by decide

theorem test_decode_normNeg_rows_low :
    [0b0001110000000001#16, 0b0010110000000001#16, 0b0011110000000001#16, 0b0100110000000001#16,
     0b0101110000000001#16, 0b0110110000000001#16, 0b0111110000000001#16, 0b1000110000000001#16].map decode
      = [.normNegE1 0x401, .normNegE2 0x401, .normNegE3 0x401, .normNegE4 0x401,
         .normNegE5 0x401, .normNegE6 0x401, .normNegE7 0x401, .normNegE8 0x401] := by decide

theorem test_decode_normNeg_rows_high :
    [0b1001100000110001#16, 0b1010100000110001#16, 0b1011100000110001#16, 0b1100100000110001#16,
     0b1101100000110001#16, 0b1110100000110001#16, 0b1111100000110001#16].map decode
      = [.normNegE9 0x31, .normNegE10 0x31, .normNegE11 0x31, .normNegE12 0x31,
         .normNegE13 0x31, .normNegE14 0x31, .normNegE15 0x31] := by decide

/-- The words go back through the encoder. -/
theorem test_encode_rows :
    [Instr.zero, .subPos 1, .subNeg 0x7FF, .normPosE1 0, .normNegE15 0x7FF].map encode
      = [0x0000#16, 0x0001#16, 0x0FFF#16, 0x1000#16, 0xFFFF#16] := by decide

/-- The table is the 33 rows of the opcode table. -/
theorem test_opcodeTable_length : opcodeTable.length = 33 := by decide

theorem test_decodeTableWord_widths :
    decodeTableWord 16 0xF700 = some (.normPosE15 0x700) ∧ decodeTableWord 8 0xFF = some (.subPos 0xFF)
      ∧ decodeTableWord 32 0xF700 = none := by decide

/-! ### One step from power-up, against spec/95_test_vectors.md -/

/-- After reset, the step that fetches the word answers a state that shows the pattern. -/
def shows (w : Nat) (F : Word32) : Bool :=
  match step (State.reset.withFetchWord 16 w) with
  | .next t => t.f32Out == F
  | _ => false

/-- Section 1.2, the source's literal table, and section 1.1. -/
theorem test_step_literal_table :
    shows 0x0000 0x00000000 ∧ shows 0xF700 0x40700000 ∧ shows 0xF400 0x40400000 ∧ shows 0xE000 0x3F800000
      ∧ shows 0x1000 0x39000000 ∧ shows 0x0001 0x33800000 ∧ shows 0xD800 0xBF800000 ∧ shows 0xF800 0xC0800000 := by
  decide

/-- Section 2.1, the subnormal regime's corners. -/
theorem test_step_subnormal_corners :
    shows 0x0003 0x34400000 ∧ shows 0x03FF 0x387FC000 ∧ shows 0x07FF 0x38FFE000 ∧ shows 0x0800 0xB9000000
      ∧ shows 0x0801 0xB8FFE000 ∧ shows 0x0BFF 0xB8802000 ∧ shows 0x0FFE 0xB4000000 ∧ shows 0x0FFF 0xB3800000 := by
  decide

/-- Section 2.4, column `(e<<12)|0x07FF`, e = 1..8. -/
theorem test_step_normPos_ladder_low :
    shows 0x17FF 0x397FF000 ∧ shows 0x27FF 0x39FFF000 ∧ shows 0x37FF 0x3A7FF000 ∧ shows 0x47FF 0x3AFFF000
      ∧ shows 0x57FF 0x3B7FF000 ∧ shows 0x67FF 0x3BFFF000 ∧ shows 0x77FF 0x3C7FF000 ∧ shows 0x87FF 0x3CFFF000 := by
  decide

/-- Section 2.4, column `(e<<12)|0x07FF`, e = 9..15. -/
theorem test_step_normPos_ladder_high :
    shows 0x97FF 0x3D7FF000 ∧ shows 0xA7FF 0x3DFFF000 ∧ shows 0xB7FF 0x3E7FF000 ∧ shows 0xC7FF 0x3EFFF000
      ∧ shows 0xD7FF 0x3F7FF000 ∧ shows 0xE7FF 0x3FFFF000 ∧ shows 0xF7FF 0x407FF000 := by decide

/-- Section 2.4, column `(e<<12)|0x0FFF`, e = 1..8. -/
theorem test_step_normNeg_ladder_low :
    shows 0x1FFF 0xB9001000 ∧ shows 0x2FFF 0xB9801000 ∧ shows 0x3FFF 0xBA001000 ∧ shows 0x4FFF 0xBA801000
      ∧ shows 0x5FFF 0xBB001000 ∧ shows 0x6FFF 0xBB801000 ∧ shows 0x7FFF 0xBC001000 ∧ shows 0x8FFF 0xBC801000 := by
  decide

/-- Section 2.4, column `(e<<12)|0x0FFF`, e = 9..15, and `(e<<12)|0x0800` for two exponents. -/
theorem test_step_normNeg_ladder_high :
    shows 0x9FFF 0xBD001000 ∧ shows 0xAFFF 0xBD801000 ∧ shows 0xBFFF 0xBE001000 ∧ shows 0xCFFF 0xBE801000
      ∧ shows 0xDFFF 0xBF001000 ∧ shows 0xEFFF 0xBF801000 ∧ shows 0xFFFF 0xC0001000
      ∧ shows 0x1800 0xB9800000 ∧ shows 0xE800 0xC0000000 := by decide

/-- Section 2.2, the stage trace of 0x1801 (NORM_NEG, m != 0). -/
theorem test_signals_1801 :
    signals 0x1801#16 =
      ⟨false, true, 1, 0x80000000, 115, 0x801, 115, 0x001, 0x00000FFF, 0x007FF800,
        some ⟨⟨0x00FFF000, 114, 1⟩, 0x7FF000, 0xB97FF000⟩⟩ := by decide

/-- Section 2.2, the stage trace of 0x0C00 (SUB_NEG). -/
theorem test_signals_0C00 :
    signals 0x0C00#16 =
      ⟨false, true, 0, 0x80000000, 114, 0xC00, 115, 0xC00, 0x00000400, 0x00200000,
        some ⟨⟨0x00800000, 113, 2⟩, 0x000000, 0xB8800000⟩⟩ := by decide

/-- Section 2.3: loop and closed form at both ends of the shift range. -/
theorem test_normalizer_forms :
    normalizeClosed 1 0x800 115 = ⟨0x00800000, 103, 12⟩ ∧ normalize 0x800 115 = ⟨0x00800000, 103, 12⟩
      ∧ normalizeClosed 4096 0x800000 115 = ⟨0x00800000, 115, 0⟩ ∧ normalize 0x800000 115 = ⟨0x00800000, 115, 0⟩ := by
  decide

/-- A narrow datapath of 24 bits (R57), on the extreme words. -/
theorem test_width_24 : hsnrToF32At 24 0x0FFF#16 = 0xB3800000 ∧ hsnrToF32At 24 0xF800#16 = 0xC0800000 := by decide

/-- Section 3, P2 as evaluations (R42). -/
theorem test_program_P2 :
    ∀ e ∈ [Evaluation.mk 0x07FF 0x38FFE000, ⟨0x1000, 0x39000000⟩, ⟨0x1001, 0x39001000⟩, ⟨0x0FFF, 0xB3800000⟩,
      ⟨0x0800, 0xB9000000⟩, ⟨0x1FFF, 0xB9001000⟩, ⟨0x1800, 0xB9800000⟩], e.Holds := by decide

/-- IEEE 754 equality takes +0 and −0 as equal and tells a NaN from itself (R68, G3). -/
theorem test_ieeeEq : ieeeEq 0x00000000 0x80000000 ∧ !ieeeEq 0x7FC00000 0x7FC00000 ∧ !ieeeEq 0x3F800000 0xBF800000 := by
  decide

/-! ### The port and stops -/

/-- A port with pin 3 floating and the rest low. -/
def floatingPort : HsnrPort :=
  ⟨#v[.low, .low, .low, .floating, .low, .low, .low, .low, .low, .low, .low, .low, .low, .low, .low, .low]⟩

/-- R89: such an input is refused. -/
theorem test_step_refuses_floating :
    (match step (State.reset.enqueueFirst floatingPort) with
      | .refused r => r == .nonTwoValuedInput
      | _ => false) = true := by decide

/-- R23: pin 0 carries bit 0 and pin 15 bit 15. -/
theorem test_port_pins :
    (HsnrPort.ofWord 0x8001#16).pins[0] = .high ∧ (HsnrPort.ofWord 0x8001#16).pins[15] = .high
      ∧ (HsnrPort.ofWord 0x8001#16).pins[7] = .low ∧ (HsnrPort.ofWord 0x8001#16).word? = some 0x8001#16 := by decide

/-- R21, R91: at power-up the output is DECODE of the input. -/
theorem test_reset_settled : Settled State.reset := by decide

/-! ### Witnesses: each shows values that meet the hypotheses of the statement it is named after -/

theorem witness_DecodeOfEncodeIsTheInstruction :
    WellFormed (.subPos 1) ∧ WellFormed (.subPos 0x7FF) ∧ WellFormed (.normNegE15 0) := by decide

theorem witness_DecodeIsTheFirstMatchingTableRow : (0x0001#16 : Word16) ≠ 0x0000#16 := by decide

theorem witness_NonTwoValuedInputIsRefused :
    (∃ i : Fin 16, (State.reset.enqueueFirst floatingPort).presentNext.hsnrIn.pins[i] = .floating)
      ∧ ∀ i : Fin 16, State.reset.presentNext.hsnrIn.pins[i] = .low := by decide

theorem witness_StepRunsTheDecodedWord :
    (State.reset.withFetchWord 16 0xF700).presentNext.hsnrIn.word? = some 0xF700#16 ∧ State.reset.pending = []
      ∧ (State.reset.withFetchWord 16 0xF700).pending = HsnrPort.ofWord 0xF700#16 :: [] := by decide

theorem witness_PresentedWordIsConverted : 0 < 2 ^ 16 ∧ 0xFFFF < 2 ^ 16 := by decide

theorem witness_ZeroGivesPlusZeroAlone : isZeroPattern (hsnrToF32 0x0000#16) = true := by decide

theorem witness_SubPosResult :
    (1 : Mantissa) ≠ 0 ∧ (0x7FF : Mantissa) ≠ 0 ∧ shiftTrace 0x0001#16 = some (1, 12, 103) := by decide

theorem witness_SubPosResult_value : realOf (hsnrToF32 0xE000#16) = some 1 ∧ (0 : ℚ) < 1 := by
  refine ⟨?_, by norm_num⟩
  rw [show hsnrToF32 0xE000#16 = 0x3F800000#32 by decide]
  have he : outExponent 0x3F800000#32 = 127#8 := by decide
  have hf : outFraction 0x3F800000#32 = 0#23 := by decide
  have hs : outSign 0x3F800000#32 = false := by decide
  simp [realOf, he, hf, hs]

theorem witness_SubNegResult : expField 0x0800#16 = 0 ∧ expField 0x0FFF#16 = 0 := by decide

theorem witness_NormPosResult :
    (1, Instr.normPosE1) ∈ normPosCtors ∧ (15, Instr.normPosE15) ∈ normPosCtors ∧ expField 0x1000#16 ≠ 0 := by
  refine ⟨by simp [normPosCtors], by simp [normPosCtors], by decide⟩

theorem witness_NormNegResult :
    (1, Instr.normNegE1) ∈ normNegCtors ∧ (15, Instr.normNegE15) ∈ normNegCtors
      ∧ shiftTrace 0x1800#16 = some (4096, 0, 115) ∧ shiftTrace 0x1FFF#16 = some (2049, 1, 114) := by
  refine ⟨by simp [normNegCtors], by simp [normNegCtors], by decide, by decide⟩

theorem witness_ZeroBypassTakesPrecedence :
    (signals 0x0001#16).back = some ⟨⟨0x00800000, 103, 12⟩, 0, 0x33800000⟩ := by decide

theorem witness_OutputSignIsInputBitEleven :
    (0x0800#16 : Word16) ≠ 0x0000#16 ∧ (0x0800#16).getLsbD 11 = true ∧ (0x07FF#16).getLsbD 11 = false := by decide

theorem witness_ExponentWiresStayInRange :
    ((signals 0xF800#16).back.map (·.normal.exp2)) = some 129 ∧ ((signals 0x0001#16).back.map (·.normal.exp2)) = some 103
    := by decide

theorem witness_RegimeMultiplexerSelects :
    expField 0x0FFF#16 = 0 ∧ expField 0x1000#16 = 1 ∧ expField 0xFFFF#16 ≠ 0 := by decide

theorem witness_UnwinderNegatesWithOnesFill : expField 0xD800#16 ≠ 0 ∧ signField 0xD800#16 = true := by decide

theorem witness_UnwinderGivesAbsoluteSignificand :
    (0x0001#16 : Word16) ≠ 0x0000#16 ∧ (0x7FF : Mantissa) ≠ 0 ∧ (1 : BitVec 4) ≠ 0 ∧ (15 : BitVec 4) ≠ 0 := by decide

theorem witness_PreShiftLosesNoBit :
    (0x0001#16 : Word16) ≠ 0x0000#16 ∧ (signals 0x0001#16).mag3 = 0x800#32 ∧ (signals 0xF800#16).mag3 = 0x800000#32 := by
  decide

theorem witness_NormalizerLoopStopsNormalized :
    1 ≤ (1 : Word32).toNat ∧ (1 : Word32).toNat ≤ 4096 ∧ 1 ≤ (4096 : Word32).toNat ∧ (4096 : Word32).toNat ≤ 4096 := by
  decide

theorem witness_BarrelShifterEqualsLoop :
    shiftTrace (inputWord 0#4 false 0x400) = some (1024, 2, 113) ∧ shiftTrace (inputWord 0#4 true 0) = some (2048, 1, 114)
      ∧ shiftTrace (inputWord 15#4 false 0) = some (2048, 1, 128) ∧ shiftTrace (inputWord 15#4 true 0) = some (4096, 0, 129)
    := by decide

theorem witness_PackerConcatenatesFields :
    (signals 0xF800#16).back = some ⟨⟨0x00800000, 129, 0⟩, 0, 0xC0800000⟩ := by decide

theorem witness_WorkingWidthDoesNotMatter : 24 ≤ 24 := by decide

theorem witness_SignificandByRegime :
    expField 0x0800#16 = 0 ∧ significand 0x0800#16 = -2048 ∧ significand 0x07FF#16 = 2047
      ∧ (0xF7FF#16).getLsbD 11 = false ∧ significand 0xF7FF#16 = 4095
      ∧ (0xF800#16).getLsbD 11 = true ∧ significand 0xF800#16 = -4096 := by decide

theorem witness_OutputIsExactlyTheScaledSignificand :
    (15 : BitVec 4) ≠ 0 ∧ expField 0xFFFF#16 = 15 ∧ significand 0xFFFF#16 = -2049 := by decide

theorem witness_OutputFieldsPerClass :
    mantField 0x1800#16 = 0 ∧ mantField 0x1801#16 ≠ 0 ∧ signField 0x1801#16 = true ∧ expField 0x1801#16 ≠ 0
      ∧ signField 0x1001#16 = false ∧ expField 0x0001#16 = 0 := by decide

theorem witness_OutputRange :
    (0x0001#16 : Word16) ≠ 0x0000#16 ∧ outExponent (hsnrToF32 0x0001#16) = 103#8
      ∧ outExponent (hsnrToF32 0xF800#16) = 129#8 := by decide

theorem witness_DistinctInputsGiveDistinctOutputs :
    hsnrToF32 (inputWord 0#4 true 0) = hsnrToF32 0x0800#16 := by decide

theorem witness_OutputDependsOnTheInputAlone :
    step (State.reset.withFetchWord 16 0xE000)
        = .next { State.reset with hsnrIn := HsnrPort.ofWord 0xE000, f32Out := 0x3F800000 }
      ∧ step { State.reset with hsnrIn := HsnrPort.ofWord 0xE000, f32Out := 0xFFFFFFFF }
        = .next { State.reset with hsnrIn := HsnrPort.ofWord 0xE000, f32Out := 0x3F800000 } := by
  constructor <;> rfl

theorem witness_SubnormalComplementation :
    1 ≤ (0x0001#16).toNat ∧ (0x07FF#16).toNat ≤ 0x7FF := by decide

theorem witness_NormalizedComplementation :
    (1 : BitVec 4) ≠ 0 ∧ (14 : BitVec 4).toNat ≤ 14 ∧ 1 ≤ (0x07FF#16).toNat ∧ (0x07FF#16).toNat ≤ 0x7FF := by decide

theorem witness_EveryWordHasAFiniteOutput :
    (State.reset.withFetchWord 16 0xFFFF).presentNext.hsnrIn.word? = some 0xFFFF#16 := by decide

theorem witness_EveryStepSettlesTheOutput :
    step { State.reset with f32Out := 0x12345678 } = .next State.reset := rfl

theorem witness_StepKeepsRunInv :
    RunInv (State.reset.withFetchWord 16 0xE000)
      ∧ step (State.reset.withFetchWord 16 0xE000)
        = .next { State.reset with hsnrIn := HsnrPort.ofWord 0xE000, f32Out := 0x3F800000 } := by
  exact ⟨by decide, rfl⟩

theorem witness_RunWithTwoValuedInputsNeverStops :
    RunInv { State.reset with pending := [HsnrPort.ofWord 0xFFFF, HsnrPort.ofWord 0x0001] } := by decide

theorem witness_HeldInputGivesTheSameOutput : step State.reset = .next State.reset := rfl

theorem witness_SampleAfterSettlingReadsDecode :
    Settled State.reset ∧ State.reset.hsnrIn.word? = some 0x0000#16 := by decide

theorem witness_InstancesAreIndependent :
    stepInstance (n := 2) 0 #v[State.reset, State.reset] = .next #v[State.reset, State.reset]
      ∧ (1 : Fin 2) ≠ 0
      ∧ stepInstance (n := 2) 1 #v[State.reset, State.reset] = .next #v[State.reset, State.reset] := by
  exact ⟨rfl, by decide, rfl⟩

end Sys2Proof.Tests
end

/-! PROOFS for the family of 30_encoding.md (O28, O30): the fields as numbers, the datapath in closed form, and from it
the three fields and the exact value of every output. -/

namespace Sys2Proof

/-! ### The fields as numbers -/

/-- A bit put in front of a vector weighs `2 ^ n`. -/
theorem toNat_ofBool_append {n : Nat} (b : Bool) (x : BitVec n) :
    (BitVec.ofBool b ++ x).toNat = b.toNat * 2 ^ n + x.toNat := by
  rw [BitVec.toNat_append, ← Nat.shiftLeft_add_eq_or_of_lt x.isLt, Nat.shiftLeft_eq, BitVec.toNat_ofBool]

/-- The 12-bit group is the sign in front of the mantissa (R31, R34). -/
theorem groupField_eq_append (h : Word16) : groupField h = BitVec.ofBool (signField h) ++ mantField h := by
  apply BitVec.eq_of_getLsbD_eq
  intro i hi
  rw [BitVec.getLsbD_append]
  by_cases hlow : i < 11
  · simp [groupField, mantField, hlow, hi]
  · obtain rfl : i = 11 := by omega
    simp [groupField, signField]

theorem groupField_toNat (h : Word16) :
    (groupField h).toNat = (signField h).toNat * 2048 + (mantField h).toNat := by
  rw [groupField_eq_append]; exact toNat_ofBool_append _ _

/-- A nonzero word with exponent field 0 has a nonzero group. -/
theorem groupField_ne_zero {h : Word16} (hz : h ≠ 0x0000#16) (he : expField h = 0) :
    (groupField h).toNat ≠ 0 := by
  intro hg
  rw [groupField_toNat] at hg
  apply hz
  have hs : signField h = false := Bool.toNat_eq_zero.mp (by omega)
  have hm : mantField h = 0 := by apply BitVec.eq_of_toNat_eq; simp; omega
  rw [← inputWord_fields h, he, hs, hm]; rfl

end Sys2Proof

namespace Sys2Proof.Machine

/-- R34: in the subnormal regime the sign bit weighs `-2048`. -/
theorem significand_of_subnormal {h : Word16} (he : expField h = 0) :
    significand h = (mantField h).toNat - 2048 * (signField h).toNat := by
  have hm := (mantField h).isLt
  rw [significand, if_pos he, BitVec.toInt_eq_toNat_cond, groupField_toNat]
  cases signField h <;> simp <;> omega

/-- R35: in the normalized regime the sign selects the leading bits `01` or `10`. -/
theorem significand_of_normalized {h : Word16} (he : expField h ≠ 0) :
    significand h = if signField h then ((mantField h).toNat : Int) - 4096 else 2048 + (mantField h).toNat := by
  have hm := (mantField h).isLt
  have hg : (normalizedGroup h).toNat
      = ((signField h).toNat * 2 + (!signField h).toNat) * 2048 + (mantField h).toNat := by
    rw [normalizedGroup, BitVec.toNat_append, ← Nat.shiftLeft_add_eq_or_of_lt hm, Nat.shiftLeft_eq,
      toNat_ofBool_append]
    cases signField h <;> simp
  rw [significand, if_neg he, BitVec.toInt_eq_toNat_cond, hg]
  cases signField h <;> simp <;> omega

/-! ### The unwinder gives the absolute value -/

theorem mag1_of_subnormal {h : Word16} (he : expField h = 0) : (signals h).mag1 = groupField h := by
  simp [signals, regimeMagnitude, isSubnormal, he]

/-- The normalized regime turns the sign bit of the group over (R49). -/
theorem mag1_of_normalized {h : Word16} (he : expField h ≠ 0) :
    (signals h).mag1 = BitVec.ofBool (!signField h) ++ mantField h := by
  have hsel : (signals h).mag1 = groupField h ^^^ (1#1 ++ 0#11) := if_neg (by simpa [isSubnormal] using he)
  rw [hsel, groupField_eq_append, BitVec.xor_append, BitVec.xor_zero]
  cases signField h <;> rfl

/-- In both regimes the significand is `mag1` less 4096 for a negative word (R34, R35, R49). -/
theorem significand_eq_mag1 (h : Word16) :
    significand h = ((signals h).mag1.toNat : Int) - if signField h then 4096 else 0 := by
  by_cases he : expField h = 0
  · rw [significand_of_subnormal he, mag1_of_subnormal he, groupField_toNat]
    cases signField h <;> simp; omega
  · rw [significand_of_normalized he, mag1_of_normalized he, toNat_ofBool_append]
    cases signField h <;> simp

/-- The fill with ones makes the 32-bit negation one modulo 4096 (R50). -/
theorem unwind_true_toNat (mag1 : BitVec 12) : (unwind true mag1).toNat = 4096 - mag1.toNat := by
  have hlt := mag1.isLt
  have hfill : (mag1.setWidth 32 ||| extensionFill).toNat = 0xFFFFF000 + mag1.toNat := by
    rw [BitVec.toNat_or, BitVec.toNat_setWidth_of_le (by decide), Nat.or_comm]
    exact (Nat.shiftLeft_add_eq_or_of_lt hlt 0xFFFFF).symm
  simp only [unwind, if_true, BitVec.toNat_neg, hfill]
  omega

theorem unwind_false_toNat (mag1 : BitVec 12) : (unwind false mag1).toNat = mag1.toNat :=
  BitVec.toNat_setWidth_of_le (show 12 ≤ 32 by decide)

/-- R51: `mag2` is the absolute value of the significand. -/
theorem mag2_toNat (h : Word16) : (signals h).mag2.toNat = (significand h).natAbs := by
  have hlt := (signals h).mag1.isLt
  have hmag2 : (signals h).mag2 = unwind (signField h) (signals h).mag1 := rfl
  rw [hmag2, significand_eq_mag1]
  cases signField h
  · simp [unwind_false_toNat]
  · rw [unwind_true_toNat]; simp; omega

theorem significand_natAbs_le (h : Word16) : (significand h).natAbs ≤ 4096 := by
  have hlt := (signals h).mag1.isLt
  rw [significand_eq_mag1]
  cases signField h <;> simp <;> omega

/-- Only the zero word stands for 0 (R32). -/
theorem significand_ne_zero {h : Word16} (hz : h ≠ 0x0000#16) : significand h ≠ 0 := by
  by_cases he : expField h = 0
  · have hg := groupField_ne_zero hz he
    have hm := (mantField h).isLt
    rw [groupField_toNat] at hg
    rw [significand_of_subnormal he]
    have hs := (signField h).toNat_le
    omega
  · have hm := (mantField h).isLt
    rw [significand_of_normalized he]
    split <;> omega

theorem natAbs_significand_ne_zero {h : Word16} (hz : h ≠ 0x0000#16) : (significand h).natAbs ≠ 0 :=
  Int.natAbs_ne_zero.mpr (significand_ne_zero hz)

/-! ### The normalizer's loop in closed form -/

/-- The loop's guard asks whether bits 23 and above are clear (R53). -/
theorem leadingBitTest_eq_zero_iff (x : Word32) : x &&& leadingBitTestMask = 0#32 ↔ x.toNat < 2 ^ 23 := by
  have hmask : ∀ i < 32, leadingBitTestMask.getLsbD i = decide (23 ≤ i) := by decide
  constructor
  · intro hx
    apply Nat.lt_pow_two_of_testBit
    intro i hi
    rw [BitVec.testBit_toNat]
    by_cases hi32 : i < 32
    · simpa [hmask i hi32, hi] using congrArg (BitVec.getLsbD · i) hx
    · exact BitVec.getLsbD_of_ge x i (by omega)
  · intro hx
    apply BitVec.eq_of_getLsbD_eq
    intro i hi
    rw [BitVec.getLsbD_and, hmask i hi, ← BitVec.testBit_toNat]
    by_cases hi23 : 23 ≤ i
    · simp [Nat.testBit_lt_two_pow (hx.trans_le (Nat.pow_le_pow_right (by decide) hi23))]
    · simp [hi23]

/-- A loop that needs `k` more shifts to bring the leading bit to position 23 makes exactly `k`. -/
theorem normalizeLoop_eq {k rounds : Nat} {n : Normal} (hk : k ≤ rounds)
    (hlo : 2 ^ 23 ≤ n.mag4.toNat * 2 ^ k) (hhi : n.mag4.toNat * 2 ^ k < 2 ^ 24) :
    normalizeLoop rounds n = ⟨n.mag4 <<< k, n.exp2 - BitVec.ofNat 8 k, n.k + BitVec.ofNat 4 k⟩ := by
  induction k generalizing rounds n with
  | zero =>
    rw [normalizeLoop_stop rounds (by rw [ne_eq, leadingBitTest_eq_zero_iff]; omega)]
    simp
  | succ k ih =>
    obtain ⟨rounds, rfl⟩ : ∃ r, rounds = r + 1 := ⟨rounds - 1, by omega⟩
    rw [show n.mag4.toNat * 2 ^ (k + 1) = n.mag4.toNat * 2 * 2 ^ k by ring] at hlo hhi
    have hclear : n.mag4.toNat < 2 ^ 23 := by
      have := (Nat.le_mul_of_pos_right (n.mag4.toNat * 2) (Nat.two_pow_pos k)).trans_lt hhi
      omega
    have hdouble : (n.mag4 <<< 1).toNat = n.mag4.toNat * 2 := by
      rw [BitVec.toNat_shiftLeft, Nat.shiftLeft_eq]; omega
    rw [normalizeLoop_shift ((leadingBitTest_eq_zero_iff _).mpr hclear),
      ih (by omega) (by rwa [hdouble]) (by rwa [hdouble])]
    simp only [Normal.mk.injEq, ← BitVec.shiftLeft_add, Nat.add_comm 1 k, BitVec.ofNat_add, true_and]
    constructor
    · bv_omega
    · bv_omega

/-- A magnitude up to 4096 has its leading bit at 12 or below, and a shift by `23 - msb a` makes it the hidden bit. -/
theorem shift_to_hidden_bit {a : Nat} (ha : a ≠ 0) (ha' : a ≤ 4096) :
    msb a ≤ 12 ∧ 2 ^ 23 ≤ a * 2 ^ (23 - msb a) ∧ a * 2 ^ (23 - msb a) < 2 ^ 24 := by
  have hle : msb a ≤ 12 := Nat.lt_succ_iff.mp ((Nat.log2_lt ha).mpr (by omega))
  refine ⟨hle, ?_, ?_⟩
  · calc 2 ^ 23 = 2 ^ msb a * 2 ^ (23 - msb a) := by rw [← pow_add]; congr 1; omega
      _ ≤ a * 2 ^ (23 - msb a) := Nat.mul_le_mul_right _ (Nat.log2_self_le ha)
  · calc a * 2 ^ (23 - msb a) < 2 ^ (msb a + 1) * 2 ^ (23 - msb a) :=
          Nat.mul_lt_mul_of_pos_right Nat.lt_log2_self (by positivity)
      _ = 2 ^ 24 := by rw [← pow_add]; congr 1; omega

/-- The pre-shift loses no bit of a magnitude up to 4096 (R52). -/
theorem preShift_toNat {mag2 : Word32} (hle : mag2.toNat ≤ 4096) :
    (preShift mag2).toNat = mag2.toNat * 2 ^ 11 := by
  rw [preShift, BitVec.toNat_shiftLeft, Nat.shiftLeft_eq]
  exact Nat.mod_eq_of_lt (show mag2.toNat * 2 ^ 11 < 2 ^ 32 by omega)

/-- Pre-shift and shift count together move the magnitude up by `23 - msb` (R54). -/
theorem preShift_toNat_mul {mag2 : Word32} (hpos : mag2.toNat ≠ 0) (hle : mag2.toNat ≤ 4096) :
    (preShift mag2).toNat * 2 ^ (12 - msb mag2.toNat) = mag2.toNat * 2 ^ (23 - msb mag2.toNat) := by
  have hmsb := (shift_to_hidden_bit hpos hle).1
  rw [preShift_toNat hle, mul_assoc, ← pow_add]
  congr 2; omega

/-- R54: the loop gives what the leading-one detector and the barrel shifter give. -/
theorem normalize_eq_normalizeClosed {mag2 : Word32} (exp1 : BitVec 8) (hpos : mag2.toNat ≠ 0)
    (hle : mag2.toNat ≤ 4096) :
    normalize (preShift mag2) exp1 = normalizeClosed mag2 (preShift mag2) exp1 := by
  obtain ⟨-, hlo, hhi⟩ := shift_to_hidden_bit hpos hle
  rw [← preShift_toNat_mul hpos hle] at hlo hhi
  have hloop := normalizeLoop_eq (rounds := 32) (n := ⟨preShift mag2, exp1, 0#4⟩) (by omega) hlo hhi
  rw [normalize, hloop]
  simp [normalizeClosed]

theorem normalizeClosed_mag4_toNat {mag2 : Word32} (exp1 : BitVec 8) (hpos : mag2.toNat ≠ 0)
    (hle : mag2.toNat ≤ 4096) :
    (normalizeClosed mag2 (preShift mag2) exp1).mag4.toNat = mag2.toNat * 2 ^ (23 - msb mag2.toNat) := by
  obtain ⟨-, -, hhi⟩ := shift_to_hidden_bit hpos hle
  simp only [normalizeClosed, BitVec.toNat_shiftLeft, Nat.shiftLeft_eq, preShift_toNat_mul hpos hle]
  omega

/-! ### The packer and the output's fields -/

/-- The bits of an output word, field by field (R39). -/
theorem outWord_getLsbD (s : Bool) (e : BitVec 8) (f : BitVec 23) (i : Nat) :
    (outWord s e f).getLsbD i
      = if i < 23 then f.getLsbD i else if i < 31 then e.getLsbD (i - 23) else decide (i = 31) && s := by
  have hcat : (outWord s e f).getLsbD i = BitVec.getLsbD (w := 1 + 8 + 23) (BitVec.ofBool s ++ e ++ f) i := rfl
  rw [hcat, BitVec.getLsbD_append, BitVec.getLsbD_append]
  have h1 : i - 23 < 8 ↔ i < 31 := by omega
  have h2 : ¬ i < 31 → (i - 23 - 8 = 0 ↔ i = 31) := by omega
  by_cases hf : i < 23
  · simp [hf]
  · by_cases he : i < 31
    · simp [hf, he, h1]
    · simp [hf, he, h1, h2]

@[simp] theorem outSign_outWord (s : Bool) (e : BitVec 8) (f : BitVec 23) : outSign (outWord s e f) = s := by
  rw [outSign, outWord_getLsbD]; simp

@[simp] theorem outExponent_outWord (s : Bool) (e : BitVec 8) (f : BitVec 23) :
    outExponent (outWord s e f) = e := by
  apply BitVec.eq_of_getLsbD_eq
  intro i hi
  have hlt : 23 + i < 31 := by omega
  simp [outExponent, outWord_getLsbD, hi, hlt]

@[simp] theorem outFraction_outWord (s : Bool) (e : BitVec 8) (f : BitVec 23) :
    outFraction (outWord s e f) = f := by
  apply BitVec.eq_of_getLsbD_eq
  intro i hi
  simp [outFraction, outWord_getLsbD, hi]

/-- The packer's three operands do not overlap, so its ORs put the fields side by side (R56). -/
theorem pack_targetSign (s : Bool) (e : BitVec 8) (f : BitVec 23) : pack (targetSign s) e f = outWord s e f := by
  have hsign : ∀ i < 32, (targetSign s).getLsbD i = (decide (i = 31) && s) := by cases s <;> decide
  apply BitVec.eq_of_getLsbD_eq
  intro i hi
  rw [outWord_getLsbD, pack, BitVec.getLsbD_or, BitVec.getLsbD_or, hsign i hi, BitVec.getLsbD_shiftLeft,
    BitVec.getLsbD_setWidth, BitVec.getLsbD_setWidth]
  grind

/-- The hidden bit and all above it are dropped (R55). -/
theorem fraction_toNat (mag4 : Word32) : (fraction mag4).toNat = mag4.toNat % 2 ^ 23 := by
  have hmask : fractionMask.toNat = 2 ^ 23 - 1 := rfl
  rw [fraction, BitVec.toNat_setWidth, BitVec.toNat_and, hmask, Nat.and_two_pow_sub_one_eq_mod, Nat.mod_mod]

theorem placedFraction_toNat (a : Nat) : (placedFraction a).toNat = a * 2 ^ (23 - msb a) % 2 ^ 23 := by
  rw [placedFraction, BitVec.toNat_ofNat, Nat.shiftLeft_eq]

/-! ### The output word of every input -/

/-- The multiplexed exponent: the two regimes meet at 115 (R47, R49). -/
theorem exp1_eq (h : Word16) : (signals h).exp1 = BitVec.ofNat 8 (max (expField h).toNat 1 + 114) := by
  have hsel : (signals h).exp1 = regimeExponent (expField h) (exponentBase (expField h)) := rfl
  rw [hsel]
  generalize expField h = e
  revert e; decide

/-- The exponent field of the output for a word: the scale of its regime and the place of the leading bit (R40). -/
def outputExponent (h : Word16) : Nat := max (expField h).toNat 1 + 102 + msb (significand h).natAbs

/-- R40 for every nonzero word at once: sign, exponent field and fraction field. -/
theorem hsnrToF32_eq_outWord {h : Word16} (hz : h ≠ 0x0000#16) :
    hsnrToF32 h
      = outWord (signField h) (BitVec.ofNat 8 (outputExponent h)) (placedFraction (significand h).natAbs) := by
  have hmag := mag2_toNat h
  have hle : (signals h).mag2.toNat ≤ 4096 := hmag ▸ significand_natAbs_le h
  have hpos : (signals h).mag2.toNat ≠ 0 := hmag ▸ natAbs_significand_ne_zero hz
  have hmag3 : (signals h).mag3 = preShift (signals h).mag2 := rfl
  have hsign : (signals h).targetSign = targetSign (signField h) := rfl
  have hmsb := (shift_to_hidden_bit hpos hle).1
  have hfrac : fraction (normalizeClosed (signals h).mag2 (preShift (signals h).mag2) (signals h).exp1).mag4
      = placedFraction (signals h).mag2.toNat := by
    apply BitVec.eq_of_toNat_eq
    rw [fraction_toNat, normalizeClosed_mag4_toNat _ hpos hle, placedFraction_toNat]
  have hexp : (normalizeClosed (signals h).mag2 (preShift (signals h).mag2) (signals h).exp1).exp2
      = BitVec.ofNat 8 (outputExponent h) := by
    have he := (expField h).isLt
    rw [normalizeClosed, exp1_eq, outputExponent, ← hmag]
    apply BitVec.eq_of_toNat_eq
    simp only [BitVec.toNat_sub, BitVec.toNat_ofNat]
    omega
  rw [hsnrToF32_of_ne_zero hz, hmag3, hsign, normalize_eq_normalizeClosed _ hpos hle, hfrac, hexp,
    pack_targetSign, hmag]

/-- No exponent field wraps or leaves 103..129 (R40, R47). -/
theorem outputExponent_bounds {h : Word16} (hz : h ≠ 0x0000#16) :
    103 ≤ outputExponent h ∧ outputExponent h ≤ 129 := by
  have he := (expField h).isLt
  have hmsb := (shift_to_hidden_bit (natAbs_significand_ne_zero hz) (significand_natAbs_le h)).1
  rw [outputExponent]
  omega

theorem outSign_hsnrToF32 {h : Word16} (hz : h ≠ 0x0000#16) : outSign (hsnrToF32 h) = signField h := by
  rw [hsnrToF32_eq_outWord hz, outSign_outWord]

theorem outExponent_hsnrToF32 {h : Word16} (hz : h ≠ 0x0000#16) :
    (outExponent (hsnrToF32 h)).toNat = outputExponent h := by
  have hbounds := outputExponent_bounds hz
  rw [hsnrToF32_eq_outWord hz, outExponent_outWord, BitVec.toNat_ofNat]
  omega

theorem outFraction_hsnrToF32 {h : Word16} (hz : h ≠ 0x0000#16) :
    outFraction (hsnrToF32 h) = placedFraction (significand h).natAbs := by
  rw [hsnrToF32_eq_outWord hz, outFraction_outWord]

/-! ### The value of every output -/

/-- Taking the hidden bit off and adding it back in the value formula leaves the magnitude, scaled (R9, R55). -/
theorem one_add_placedFraction {a : Nat} (ha : a ≠ 0) (ha' : a ≤ 4096) :
    1 + ((placedFraction a).toNat : ℚ) / 2 ^ 23 = a * (2 : ℚ) ^ (-(msb a : ℤ)) := by
  obtain ⟨hmsb, hlo, hhi⟩ := shift_to_hidden_bit ha ha'
  have hnat : (placedFraction a).toNat + 2 ^ 23 = a * 2 ^ (23 - msb a) := by
    rw [placedFraction_toNat]; omega
  have hrat : ((placedFraction a).toNat : ℚ) + 2 ^ 23 = a * 2 ^ (23 - msb a) := by exact_mod_cast hnat
  have hpow : (2 : ℚ) ^ (23 - msb a) = 2 ^ 23 * 2 ^ (-(msb a : ℤ)) := by
    rw [← zpow_natCast, ← zpow_natCast, ← zpow_add₀ two_ne_zero]; congr 1; omega
  rw [hpow] at hrat
  linear_combination hrat / 2 ^ 23

/-- The value formula on an exponent field that is neither 0 nor 255 (R9). -/
theorem realOf_of_normal {F : Word32} (h0 : outExponent F ≠ 0) (h255 : outExponent F ≠ 255#8) :
    realOf F = some ((if outSign F then -1 else 1) * (1 + (outFraction F).toNat / 2 ^ 23)
      * (2 : ℚ) ^ ((outExponent F).toNat - 127 : ℤ)) := by
  have hF : F ≠ 0x00000000#32 := by rintro rfl; exact h0 rfl
  rw [realOf, if_neg hF, if_neg (not_or.mpr ⟨h0, h255⟩)]

/-- The sign of the significand is the sign field (R34, R35). -/
theorem significand_eq_sign_mul (h : Word16) :
    significand h = (if signField h then -1 else 1) * |significand h| := by
  have hlt := (signals h).mag1.isLt
  have hmag1 := significand_eq_mag1 h
  cases hs : signField h
  · rw [abs_of_nonneg (by simp [hmag1, hs])]; simp
  · rw [abs_of_nonpos (by simp [hmag1, hs]; omega)]; simp

/-- R63: the output is exactly the significand at the scale of its regime. -/
theorem realOf_hsnrToF32 (h : Word16) :
    realOf (hsnrToF32 h)
      = some (significand h * (2 : ℚ) ^ ((max (expField h).toNat 1 : Nat) - 25 : ℤ)) := by
  by_cases hz : h = 0x0000#16
  · have hout : hsnrToF32 0x0000#16 = 0x00000000#32 := rfl
    have hsig : significand 0x0000#16 = 0 := by decide
    rw [hz, hout, hsig]
    simp [realOf]
  · obtain ⟨hlo, hhi⟩ := outputExponent_bounds hz
    have hE := outExponent_hsnrToF32 hz
    rw [realOf_of_normal (by bv_omega) (by bv_omega), hE, outSign_hsnrToF32 hz, outFraction_hsnrToF32 hz,
      one_add_placedFraction (natAbs_significand_ne_zero hz) (significand_natAbs_le h)]
    have hsig : (significand h : ℚ) = (if signField h then -1 else 1) * ((significand h).natAbs : ℚ) := by
      rw [Nat.cast_natAbs, Int.cast_abs]
      simpa using congrArg (Int.cast : ℤ → ℚ) (significand_eq_sign_mul h)
    have hscale : ((max (expField h).toNat 1 : Nat) - 25 : ℤ)
        = -(msb (significand h).natAbs : ℤ) + ((outputExponent h : ℤ) - 127) := by
      rw [outputExponent]; push_cast; ring
    rw [hsig, hscale, zpow_add₀ two_ne_zero]
    ring_nf

/-! ### O28: the significand and its value in each regime -/

/-- R34: the range of the signed 12-bit group. -/
theorem significand_subnormal_bounds {h : Word16} (he : expField h = 0) :
    -2048 ≤ significand h ∧ significand h ≤ 2047 := by
  have hm := (mantField h).isLt
  rw [significand_of_subnormal he]
  cases signField h <;> simp <;> omega

theorem realOf_hsnrToF32_of_subnormal {h : Word16} (he : expField h = 0) :
    realOf (hsnrToF32 h) = some (significand h * (2 : ℚ) ^ (-24 : ℤ)) := by
  rw [realOf_hsnrToF32, he]; rfl

theorem one_le_expField_of_normalized {h : Word16} (he : expField h ≠ 0) : 1 ≤ (expField h).toNat := by
  bv_omega

theorem realOf_hsnrToF32_of_normalized {h : Word16} (he : expField h ≠ 0) :
    realOf (hsnrToF32 h) = some (significand h * (2 : ℚ) ^ ((expField h).toNat - 25 : ℤ)) := by
  rw [realOf_hsnrToF32, max_eq_left (one_le_expField_of_normalized he)]

/-- Settles O28: both readings of the significand come from the bits of `{s, m}`, and the value from R63. -/
theorem significandByRegime : Obligations.SignificandByRegime := by
  intro h
  have hm := (mantField h).isLt
  refine ⟨fun he => ?subnormal, fun he => ?normalized⟩
  case subnormal =>
    obtain ⟨hlo, hhi⟩ := significand_subnormal_bounds he
    exact ⟨if_pos he, hlo, hhi, realOf_hsnrToF32_of_subnormal he⟩
  case normalized =>
    have hsig := significand_of_normalized he
    refine ⟨if_neg he, fun hs => ?pos, fun hs => ?neg, realOf_hsnrToF32_of_normalized he⟩
    case pos =>
      rw [signField, hs, if_neg Bool.false_ne_true] at hsig
      omega
    case neg =>
      rw [signField, hs, if_pos rfl] at hsig
      omega

/-! ### O30: the output's fields per class -/

/-- A magnitude of 12 bits has its leading bit at 11. -/
theorem msb_eq_eleven {a : Nat} (hlo : 2048 ≤ a) (hhi : a ≤ 4095) : msb a = 11 :=
  (Nat.log2_eq_iff (by omega)).mpr (by omega)

theorem placedFraction_of_twelve_bits {a : Nat} (hlo : 2048 ≤ a) (hhi : a ≤ 4095) :
    placedFraction a = BitVec.ofNat 23 (a <<< 12) := by
  rw [placedFraction, msb_eq_eleven hlo hhi]

/-- The hidden bit of `2048 + m` falls off the fraction field (R55). -/
theorem ofNat_hidden_add_mantissa (m : Mantissa) :
    BitVec.ofNat 23 ((2048 + m.toNat) <<< 12) = m.setWidth 23 <<< 12 := by
  have hm := m.isLt
  apply BitVec.eq_of_toNat_eq
  rw [BitVec.toNat_ofNat, BitVec.toNat_shiftLeft, BitVec.toNat_setWidth_of_le (by decide), Nat.shiftLeft_eq,
    Nat.shiftLeft_eq]
  omega

/-- A magnitude of at most 12 significant bits leaves the low 12 fraction bits clear (R40). -/
theorem placedFraction_getLsbD_low {a i : Nat} (ha : a ≤ 4096) (hi : i < 12) :
    (placedFraction a).getLsbD i = false := by
  rcases Nat.lt_or_eq_of_le ha with hlt | rfl
  case inr => revert i; decide
  have hmsb : msb a ≤ 11 := by
    by_cases ha0 : a = 0
    · subst ha0; decide
    · exact Nat.lt_succ_iff.mp ((Nat.log2_lt ha0).mpr hlt)
  have hshift : ¬ 23 - msb a ≤ i := by omega
  simp [placedFraction, BitVec.getLsbD_ofNat, Nat.testBit_shiftLeft, hshift]

theorem hsnrToF32_low_bits (h : Word16) : hsnrToF32 h &&& 0xFFF#32 = 0#32 := by
  have hmask : ∀ i < 32, (0xFFF#32).getLsbD i = decide (i < 12) := by decide
  by_cases hz : h = 0x0000#16
  · subst hz; rfl
  · apply BitVec.eq_of_getLsbD_eq
    intro i hi
    rw [BitVec.getLsbD_and, hmask i hi, hsnrToF32_eq_outWord hz, outWord_getLsbD]
    by_cases hlow : i < 12
    · rw [if_pos (by omega), placedFraction_getLsbD_low (significand_natAbs_le h) hlow]; simp
    · simp [hlow]

/-- No output is -0: a nonzero word's exponent field is at least 103, and the zero word gives +0 (R32, R40). -/
theorem hsnrToF32_ne_negZero (h : Word16) : hsnrToF32 h ≠ 0x80000000#32 := by
  intro hneg
  by_cases hz : h = 0x0000#16
  · subst hz; exact absurd hneg (by decide)
  · have hE := outExponent_hsnrToF32 hz
    have hE0 : (outExponent 0x80000000#32).toNat = 0 := rfl
    have hlo := (outputExponent_bounds hz).1
    rw [hneg, hE0] at hE
    omega

/-- In the subnormal regime the exponent field counts up from 103 with the leading bit (R40). -/
theorem outputExponent_of_subnormal {h : Word16} (he : expField h = 0) :
    outputExponent h = 103 + msb (significand h).natAbs := by
  rw [outputExponent, he]; rfl

/-- The leading bit of a subnormal magnitude is at most 10, or 11 for the most negative word (R40). -/
theorem msb_le_of_subnormal {h : Word16} (hz : h ≠ 0x0000#16) (he : expField h = 0) :
    msb (significand h).natAbs ≤ if signField h then 11 else 10 := by
  have hm := (mantField h).isLt
  have hpos := natAbs_significand_ne_zero hz
  have hsig := significand_of_subnormal he
  cases hs : signField h
  · have hlt : (significand h).natAbs < 2 ^ 11 := by simp [hs] at hsig; omega
    exact Nat.lt_succ_iff.mp ((Nat.log2_lt hpos).mpr hlt)
  · have hlt : (significand h).natAbs < 2 ^ 12 := by simp [hs] at hsig; omega
    exact Nat.lt_succ_iff.mp ((Nat.log2_lt hpos).mpr hlt)

theorem outputExponent_of_msb_eleven {h : Word16} (he : expField h ≠ 0)
    (hmsb : msb (significand h).natAbs = 11) : outputExponent h = (expField h).toNat + 113 := by
  rw [outputExponent, hmsb, max_eq_left (one_le_expField_of_normalized he)]

/-- The absolute significand of a normalized word (R35). -/
theorem natAbs_significand_of_normalized {h : Word16} (he : expField h ≠ 0) :
    (significand h).natAbs = if signField h then 4096 - (mantField h).toNat else 2048 + (mantField h).toNat := by
  have hm := (mantField h).isLt
  rw [significand_of_normalized he]
  split <;> omega

/-- NORM_POS, and NORM_NEG with a nonzero mantissa: 12 significant bits (R40). -/
theorem fields_of_twelve_bits {h : Word16} (hz : h ≠ 0x0000#16) (he : expField h ≠ 0)
    (hlo : 2048 ≤ (significand h).natAbs) (hhi : (significand h).natAbs ≤ 4095) :
    (outExponent (hsnrToF32 h)).toNat = (expField h).toNat + 113
    ∧ outFraction (hsnrToF32 h) = BitVec.ofNat 23 ((significand h).natAbs <<< 12) := by
  rw [outExponent_hsnrToF32 hz, outFraction_hsnrToF32 hz, placedFraction_of_twelve_bits hlo hhi,
    outputExponent_of_msb_eleven he (msb_eq_eleven hlo hhi)]
  exact ⟨rfl, rfl⟩

theorem fields_of_subnormal {h : Word16} (hz : h ≠ 0x0000#16) (he : expField h = 0) :
    (outExponent (hsnrToF32 h)).toNat = 103 + msb (significand h).natAbs
    ∧ outFraction (hsnrToF32 h) = placedFraction (significand h).natAbs
    ∧ (outExponent (hsnrToF32 h)).toNat ≤ (if signField h then 114 else 113) := by
  have hmsb := msb_le_of_subnormal hz he
  rw [outExponent_hsnrToF32 hz, outFraction_hsnrToF32 hz, outputExponent_of_subnormal he]
  exact ⟨rfl, rfl, (Nat.add_le_add_left hmsb 103).trans (by cases signField h <;> decide)⟩

theorem fields_of_normPos {h : Word16} (hz : h ≠ 0x0000#16) (he : expField h ≠ 0) (hs : signField h = false) :
    (outExponent (hsnrToF32 h)).toNat = (expField h).toNat + 113
    ∧ outFraction (hsnrToF32 h) = (mantField h).setWidth 23 <<< 12 := by
  have hm := (mantField h).isLt
  have ha := natAbs_significand_of_normalized he
  rw [hs, if_neg Bool.false_ne_true] at ha
  have hfields := fields_of_twelve_bits hz he (by omega) (by omega)
  rwa [ha, ofNat_hidden_add_mantissa] at hfields

/-- The one magnitude of 13 bits, 4096, has a clear fraction and the next exponent (R40). -/
theorem fields_of_normNeg_zero {h : Word16} (hz : h ≠ 0x0000#16) (he : expField h ≠ 0) (hs : signField h = true)
    (hm : mantField h = 0) :
    (outExponent (hsnrToF32 h)).toNat = (expField h).toNat + 114 ∧ outFraction (hsnrToF32 h) = 0#23 := by
  have ha : (significand h).natAbs = 4096 := by rw [natAbs_significand_of_normalized he, hs, hm]; rfl
  have hmsb : msb 4096 = 12 := by decide
  rw [outExponent_hsnrToF32 hz, outFraction_hsnrToF32 hz, outputExponent, ha, hmsb,
    max_eq_left (one_le_expField_of_normalized he)]
  exact ⟨rfl, by decide⟩

theorem fields_of_normNeg {h : Word16} (hz : h ≠ 0x0000#16) (he : expField h ≠ 0) (hs : signField h = true)
    (hm : mantField h ≠ 0) :
    (outExponent (hsnrToF32 h)).toNat = (expField h).toNat + 113
    ∧ outFraction (hsnrToF32 h) = BitVec.ofNat 23 ((4096 - (mantField h).toNat) <<< 12) := by
  have hlt := (mantField h).isLt
  have hpos : (mantField h).toNat ≠ 0 := by bv_omega
  have ha := natAbs_significand_of_normalized he
  rw [hs, if_pos rfl] at ha
  have hfields := fields_of_twelve_bits hz he (by omega) (by omega)
  rwa [ha] at hfields

/-- Settles O30: every nonzero output is `{s, outputExponent, placedFraction |v|}`, read off class by class. -/
theorem outputFieldsPerClass : Obligations.OutputFieldsPerClass := by
  refine ⟨rfl, fun h hz => ?_, fun h => ⟨hsnrToF32_ne_negZero h, hsnrToF32_low_bits h⟩, by decide⟩
  have hbounds := outputExponent_bounds hz
  rw [← outExponent_hsnrToF32 hz] at hbounds
  exact ⟨outSign_hsnrToF32 hz, fields_of_subnormal hz, fields_of_normPos hz, fields_of_normNeg_zero hz,
    fields_of_normNeg hz, hbounds⟩

end Sys2Proof.Machine

/-! PROOFS for the family of 40_decode.md (O11 to O15, O17 to O27, O29, O31 to O35, O37): the words of the 33 rows, the
datapath's wires as numbers, and from the exact value of every output the numeric laws. -/

namespace Sys2Proof

/-! ### Words as numbers -/

theorem expField_toNat (h : Word16) : (expField h).toNat = h.toNat / 2 ^ 12 := by
  have hlt := h.isLt
  rw [expField, BitVec.extractLsb'_toNat, Nat.shiftRight_eq_div_pow]
  omega

theorem inputWord_toNat (e : BitVec 4) (s : Bool) (m : Mantissa) :
    (inputWord e s m).toNat = (e.toNat * 2 + s.toNat) * 2048 + m.toNat := by
  have hes : (e ++ BitVec.ofBool s).toNat = e.toNat * 2 + s.toNat := by
    rw [BitVec.toNat_append, ← Nat.shiftLeft_add_eq_or_of_lt (BitVec.ofBool s).isLt, Nat.shiftLeft_eq,
      BitVec.toNat_ofBool]
  have hcat : (inputWord e s m).toNat = (e ++ BitVec.ofBool s).toNat <<< 11 ||| m.toNat := BitVec.toNat_append _ _
  rw [hcat, ← Nat.shiftLeft_add_eq_or_of_lt m.isLt, Nat.shiftLeft_eq, hes]

/-- Only the zero fields give the zero word (R36). -/
theorem inputWord_eq_zero_iff (e : BitVec 4) (s : Bool) (m : Mantissa) :
    inputWord e s m = 0x0000#16 ↔ e = 0 ∧ s = false ∧ m = 0 := by
  constructor
  · intro h0
    refine ⟨?_, ?_, ?_⟩
    · rw [← expField_inputWord e s m, h0]; rfl
    · rw [← signField_inputWord e s m, h0]; rfl
    · rw [← mantField_inputWord e s m, h0]; rfl
  · rintro ⟨rfl, rfl, rfl⟩; rfl

theorem inputWord_ne_zero_of_exp {e : BitVec 4} (he : e ≠ 0) (s : Bool) (m : Mantissa) :
    inputWord e s m ≠ 0x0000#16 := fun h0 => he ((inputWord_eq_zero_iff e s m).mp h0).1

theorem inputWord_true_ne_zero (e : BitVec 4) (m : Mantissa) : inputWord e true m ≠ 0x0000#16 :=
  fun h0 => Bool.noConfusion ((inputWord_eq_zero_iff e true m).mp h0).2.1

theorem inputWord_ne_zero_of_mant (e : BitVec 4) (s : Bool) {m : Mantissa} (hm : m ≠ 0) :
    inputWord e s m ≠ 0x0000#16 := fun h0 => hm ((inputWord_eq_zero_iff e s m).mp h0).2.2

/-! ### The rows and their words -/

/-- The constructor `c` is the row of the words `{e, s, m}`: its mask and match fix `e` and `s` alone, and the decoder
takes each of the words to it (R36). -/
structure IsRow (e : BitVec 4) (s : Bool) (c : Mantissa → Instr) : Prop where
  mask : ∀ m, (c m).row.mask = 0xF800#16
  matchBits : ∀ m, (c m).row.matchBits = inputWord e s 0
  operand : ∀ m, (c m).operand = m
  decode : ∀ m, decode (inputWord e s m) = c m

theorem isRow_subNeg : IsRow 0#4 true .subNeg :=
  ⟨fun _ => rfl, fun _ => rfl, fun _ => rfl, fun m => by simp [decode]⟩

theorem decode_subPos {m : Mantissa} (hm : m ≠ 0) : decode (inputWord 0#4 false m) = .subPos m := by
  have hz := inputWord_ne_zero_of_mant 0#4 false hm
  simp [decode, hz]

/-- Each constructor of class NORM_POS is the row of its exponent with sign 0. -/
theorem isRow_of_mem_normPosCtors {ec : Nat × (Mantissa → Instr)} (hec : ec ∈ Machine.normPosCtors) :
    BitVec.ofNat 4 ec.1 ≠ 0 ∧ (BitVec.ofNat 4 ec.1).toNat = ec.1 ∧ IsRow (BitVec.ofNat 4 ec.1) false ec.2 := by
  simp only [Machine.normPosCtors, List.cons_append, List.nil_append, List.mem_cons, List.not_mem_nil, or_false] at hec
  rcases hec with rfl | rfl | rfl | rfl | rfl | rfl | rfl | rfl | rfl | rfl | rfl | rfl | rfl | rfl | rfl <;>
    exact ⟨by decide, by decide, fun _ => rfl, fun _ => rfl, fun _ => rfl, fun m => by simp [decode]⟩

/-- Each constructor of class NORM_NEG is the row of its exponent with sign 1. -/
theorem isRow_of_mem_normNegCtors {ec : Nat × (Mantissa → Instr)} (hec : ec ∈ Machine.normNegCtors) :
    BitVec.ofNat 4 ec.1 ≠ 0 ∧ (BitVec.ofNat 4 ec.1).toNat = ec.1 ∧ IsRow (BitVec.ofNat 4 ec.1) true ec.2 := by
  simp only [Machine.normNegCtors, List.cons_append, List.nil_append, List.mem_cons, List.not_mem_nil, or_false] at hec
  rcases hec with rfl | rfl | rfl | rfl | rfl | rfl | rfl | rfl | rfl | rfl | rfl | rfl | rfl | rfl | rfl <;>
    exact ⟨by decide, by decide, fun _ => rfl, fun _ => rfl, fun _ => rfl, fun m => by simp [decode]⟩

theorem encode_of_isRow {e : BitVec 4} {s : Bool} {c : Mantissa → Instr} (hc : IsRow e s c) (m : Mantissa) :
    encode (c m) = inputWord e s m := by
  rw [encode_eq_inputWord (hc.matchBits m), hc.operand]

/-- R37: the word of the decoded instruction is the word. -/
theorem encode_decode (h : Word16) : encode (decode h) = h := by
  by_cases hz : h = 0x0000#16
  · subst hz; rfl
  · have hop : (decode h).operand = mantField h := by
      simp only [decode, if_neg hz]
      split <;> rfl
    have hmatch : (decode h).row.matchBits = inputWord (expField h) (signField h) 0 := by
      simp only [decode, if_neg hz]
      generalize signField h = s
      obtain ⟨e, he, hexp⟩ : ∃ e < 16, expField h = BitVec.ofNat 4 e := ⟨_, (expField h).isLt, by simp⟩
      rw [hexp]
      interval_cases e <;> cases s <;> rfl
    rw [encode_eq_inputWord hmatch, hop, inputWord_fields]

end Sys2Proof

namespace Sys2Proof.Machine

/-! ### The significand of each row's words -/

theorem significand_subPos (m : Mantissa) : significand (inputWord 0#4 false m) = m.toNat := by
  simp [significand_of_subnormal]

theorem significand_subNeg (m : Mantissa) : significand (inputWord 0#4 true m) = m.toNat - 2048 := by
  simp [significand_of_subnormal]

theorem significand_normPos {e : BitVec 4} (he : e ≠ 0) (m : Mantissa) :
    significand (inputWord e false m) = 2048 + m.toNat := by
  rw [significand_of_normalized (by rwa [expField_inputWord])]; simp

theorem significand_normNeg {e : BitVec 4} (he : e ≠ 0) (m : Mantissa) :
    significand (inputWord e true m) = m.toNat - 4096 := by
  rw [significand_of_normalized (by rwa [expField_inputWord])]; simp

theorem natAbs_significand_subPos (m : Mantissa) : (significand (inputWord 0#4 false m)).natAbs = m.toNat := by
  rw [significand_subPos]; rfl

theorem natAbs_significand_subNeg (m : Mantissa) :
    (significand (inputWord 0#4 true m)).natAbs = 2048 - m.toNat := by
  have hm := m.isLt
  rw [significand_subNeg]; omega

theorem natAbs_significand_normPos {e : BitVec 4} (he : e ≠ 0) (m : Mantissa) :
    (significand (inputWord e false m)).natAbs = 2048 + m.toNat := by
  rw [significand_normPos he]; omega

theorem natAbs_significand_normNeg {e : BitVec 4} (he : e ≠ 0) (m : Mantissa) :
    (significand (inputWord e true m)).natAbs = 4096 - m.toNat := by
  have hm := m.isLt
  rw [significand_normNeg he]; omega

/-! ### The scale of a word and the bounds it gives -/

/-- The weight of one unit of the significand, `2 ^ (max(e, 1) - 25)` (R63). -/
def outputScale (h : Word16) : ℚ := (2 : ℚ) ^ ((max (expField h).toNat 1 : Nat) - 25 : ℤ)

theorem realOf_eq_some_iff {h : Word16} {q : ℚ} :
    realOf (hsnrToF32 h) = some q ↔ significand h * outputScale h = q := by
  rw [realOf_hsnrToF32, Option.some_inj, outputScale]

/-- The value of a word from its significand and its exponent. -/
theorem realOf_of_significand {h : Word16} {v : ℤ} {e : Nat} (hv : significand h = v)
    (he : max (expField h).toNat 1 = e) : realOf (hsnrToF32 h) = some (v * (2 : ℚ) ^ (e - 25 : ℤ)) := by
  rw [realOf_hsnrToF32, hv, he]

theorem outputScale_pos (h : Word16) : 0 < outputScale h := zpow_pos two_pos _

theorem outputScale_ge (h : Word16) : (2 : ℚ) ^ (-24 : ℤ) ≤ outputScale h :=
  zpow_le_zpow_right₀ one_le_two (by omega)

theorem outputScale_le (h : Word16) : outputScale h ≤ (2 : ℚ) ^ (-10 : ℤ) := by
  have he := (expField h).isLt
  exact zpow_le_zpow_right₀ one_le_two (by omega)

/-- The two ends of the significand's range: 4096 is attained on the negative side alone (R51, R65). -/
theorem significand_bounds (h : Word16) : -4096 ≤ significand h ∧ significand h ≤ 4095 := by
  have hlt := (signals h).mag1.isLt
  rw [significand_eq_mag1]
  split <;> omega

theorem value_le (h : Word16) : significand h * outputScale h ≤ 4095 * (2 : ℚ) ^ (-10 : ℤ) := by
  have hv : (significand h : ℚ) ≤ 4095 := by exact_mod_cast (significand_bounds h).2
  calc significand h * outputScale h ≤ 4095 * outputScale h := by gcongr; exact (outputScale_pos h).le
    _ ≤ 4095 * (2 : ℚ) ^ (-10 : ℤ) := by gcongr; exact outputScale_le h

theorem value_ge (h : Word16) : -4 ≤ significand h * outputScale h := by
  have hv : (-4096 : ℚ) ≤ significand h := by exact_mod_cast (significand_bounds h).1
  calc (-4 : ℚ) = -4096 * (2 : ℚ) ^ (-10 : ℤ) := by norm_num
    _ ≤ -4096 * outputScale h := mul_le_mul_of_nonpos_left (outputScale_le h) (by norm_num)
    _ ≤ significand h * outputScale h := by gcongr; exact (outputScale_pos h).le

/-- A value is at least its significand's least magnitude at the least scale. -/
theorem le_mul_outputScale {h : Word16} {a x : ℚ} (ha : 0 ≤ a) (hx : a ≤ x) :
    a * (2 : ℚ) ^ (-24 : ℤ) ≤ x * outputScale h := by
  have hscale := outputScale_ge h
  have hx0 := ha.trans hx
  gcongr

theorem abs_value_ge {h : Word16} (hz : h ≠ 0x0000#16) :
    (2 : ℚ) ^ (-24 : ℤ) ≤ |significand h * outputScale h| := by
  have hv : (1 : ℚ) ≤ |(significand h : ℚ)| := by exact_mod_cast Int.one_le_abs (significand_ne_zero hz)
  rw [abs_mul, abs_of_pos (outputScale_pos h)]
  simpa using le_mul_outputScale zero_le_one hv

/-! ### O17, O18: the fields and the sign -/

/-- Settles O17: each field is a run of the word's bits. -/
theorem fieldsAreTheWordsBits : Obligations.FieldsAreTheWordsBits := by
  intro h
  refine ⟨rfl, expField_toNat h, ?mag0⟩
  case mag0 =>
    show (groupField h).toNat = _
    rw [groupField, BitVec.extractLsb'_toNat, Nat.shiftRight_zero]

/-- Settles O18: the packer puts `target_sign` alone at bit 31. -/
theorem outputSignIsInputBitEleven : Obligations.OutputSignIsInputBitEleven :=
  fun _ => ⟨rfl, outSign_hsnrToF32⟩

/-! ### O19, O20: the exponent wires and the regime multiplexer -/

theorem exp0_toNat (h : Word16) : (signals h).exp0.toNat = (expField h).toNat + 114 := by
  have he := (expField h).isLt
  have hexp0 : (signals h).exp0 = (expField h).setWidth 8 + 114#8 := rfl
  rw [hexp0, BitVec.toNat_add, BitVec.toNat_setWidth_of_le (by decide), BitVec.toNat_ofNat]
  omega

theorem exp1_toNat (h : Word16) : (signals h).exp1.toNat = max (expField h).toNat 1 + 114 := by
  have he := (expField h).isLt
  rw [exp1_eq, BitVec.toNat_ofNat]
  omega

/-- A bit put in front of a mantissa is bit 11 of the group. -/
theorem ofBool_append_mantissa (b : Bool) (m : Mantissa) :
    BitVec.ofBool b ++ m = if b then 0x800#12 ||| m.setWidth 12 else m.setWidth 12 := by
  have hone : 0x800#12 = 1#1 ++ 0#11 := rfl
  have hlow : m.setWidth 12 = 0#1 ++ m := BitVec.setWidth_eq_append (by decide)
  rw [hone, hlow]
  cases b
  · rfl
  · rw [if_pos rfl, BitVec.or_append, BitVec.or_zero, BitVec.zero_or]; rfl

theorem mag1_of_subnormal_eq_or {h : Word16} (he : expField h = 0) :
    (signals h).mag1 = if signField h then 0x800#12 ||| (mantField h).setWidth 12
      else (mantField h).setWidth 12 := by
  rw [mag1_of_subnormal he, groupField_eq_append]
  exact ofBool_append_mantissa _ _

/-- The group of a normalized word with its bit 11 turned over, as OR of its two fields (R49). -/
theorem mag1_of_normalized_eq_or {h : Word16} (he : expField h ≠ 0) :
    (signals h).mag1 = if signField h then (mantField h).setWidth 12
      else 0x800#12 ||| (mantField h).setWidth 12 := by
  rw [mag1_of_normalized he]
  refine (ofBool_append_mantissa _ _).trans ?_
  cases signField h <;> rfl

/-- Settles O20: the two sides of the multiplexer, by the exponent field. -/
theorem regimeMultiplexerSelects : Obligations.RegimeMultiplexerSelects := by
  intro h
  have hexp1 := exp1_toNat h
  have hlt := (expField h).isLt
  refine ⟨fun he => ⟨?sum, ?seam, mag1_of_subnormal he⟩, fun he => ⟨?same, ?lo, ?hi, ?flip, ?fields⟩, fun he => ?one⟩
  case sum => exact if_pos (by simp [isSubnormal, he])
  case seam => rw [exp1_eq, he]; rfl
  case same => exact if_neg (by simpa [isSubnormal] using he)
  case lo => omega
  case hi => omega
  case flip => exact if_neg (by simpa [isSubnormal] using he)
  case fields => exact mag1_of_normalized_eq_or he
  case one => rw [exp1_eq, he]; rfl

/-! ### The wires from the normalizer on -/

/-- What the normalizer gives for a word, in closed form (R54). -/
def closedNormal (h : Word16) : Normal := normalizeClosed (signals h).mag2 (preShift (signals h).mag2) (signals h).exp1

theorem mag2_bounds {h : Word16} (hz : h ≠ 0x0000#16) :
    (signals h).mag2.toNat ≠ 0 ∧ (signals h).mag2.toNat ≤ 4096 := by
  rw [mag2_toNat]
  exact ⟨natAbs_significand_ne_zero hz, significand_natAbs_le h⟩

/-- Past the normalizer a nonzero word's wires are the closed form's, its fraction and the output. -/
theorem back_eq_closed {h : Word16} (hz : h ≠ 0x0000#16) :
    (signals h).back = some ⟨closedNormal h, fraction (closedNormal h).mag4, hsnrToF32 h⟩ := by
  obtain ⟨hpos, hle⟩ := mag2_bounds hz
  have hmag3 : (signals h).mag3 = preShift (signals h).mag2 := rfl
  rw [signals_back_of_ne_zero hz, backSignals, hsnrToF32_of_ne_zero hz, hmag3,
    normalize_eq_normalizeClosed _ hpos hle]
  rfl

theorem ne_zero_of_back {h : Word16} {b : BackSignals} (hb : (signals h).back = some b) : h ≠ 0x0000#16 := by
  rintro rfl
  cases hb

theorem back_eq_some {h : Word16} {b : BackSignals} (hb : (signals h).back = some b) :
    b = ⟨closedNormal h, fraction (closedNormal h).mag4, hsnrToF32 h⟩ := by
  rw [back_eq_closed (ne_zero_of_back hb)] at hb
  exact (Option.some_inj.mp hb).symm

theorem closedNormal_k_toNat (h : Word16) :
    (closedNormal h).k.toNat = 12 - msb (significand h).natAbs := by
  rw [closedNormal, normalizeClosed, mag2_toNat, BitVec.toNat_ofNat]
  omega

theorem closedNormal_exp2_toNat {h : Word16} (hz : h ≠ 0x0000#16) :
    (closedNormal h).exp2.toNat = outputExponent h := by
  have hexp1 := exp1_toNat h
  have he := (expField h).isLt
  have hmsb := (shift_to_hidden_bit (natAbs_significand_ne_zero hz) (significand_natAbs_le h)).1
  rw [closedNormal, normalizeClosed, mag2_toNat, BitVec.toNat_sub, BitVec.toNat_ofNat, outputExponent]
  omega

theorem closedNormal_mag4_toNat {h : Word16} (hz : h ≠ 0x0000#16) :
    (closedNormal h).mag4.toNat = (significand h).natAbs * 2 ^ (23 - msb (significand h).natAbs) := by
  obtain ⟨hpos, hle⟩ := mag2_bounds hz
  rw [closedNormal, normalizeClosed_mag4_toNat _ hpos hle, mag2_toNat]

/-- The normalized magnitude has its leading bit at 23 (R53). -/
theorem closedNormal_mag4_bounds {h : Word16} (hz : h ≠ 0x0000#16) :
    2 ^ 23 ≤ (closedNormal h).mag4.toNat ∧ (closedNormal h).mag4.toNat < 2 ^ 24 := by
  rw [closedNormal_mag4_toNat hz]
  exact (shift_to_hidden_bit (natAbs_significand_ne_zero hz) (significand_natAbs_le h)).2

/-- The trace of every nonzero word: magnitude, shift count and exponent field. -/
theorem shiftTrace_eq {h : Word16} (hz : h ≠ 0x0000#16) :
    shiftTrace h
      = some ((significand h).natAbs, 12 - msb (significand h).natAbs, outputExponent h) := by
  rw [shiftTrace, back_eq_closed hz, Option.map_some, mag2_toNat, closedNormal_k_toNat,
    closedNormal_exp2_toNat hz]

theorem shiftTrace_count {h : Word16} {x : Nat × Nat × Nat} (hx : x ∈ shiftTrace h) :
    h ≠ 0x0000#16 ∧ x.2.1 = 12 - msb (significand h).natAbs := by
  by_cases hz : h = 0x0000#16
  · subst hz; cases hx
  · rw [shiftTrace_eq hz, Option.mem_some] at hx
    exact ⟨hz, by rw [← hx]⟩

/-- Settles O19: `exp2` is the output's exponent field, and the count is what it lies below `exp1`. -/
theorem exponentWiresStayInRange : Obligations.ExponentWiresStayInRange := by
  intro h
  have hexp0 := exp0_toNat h
  have hexp1 := exp1_toNat h
  have he := (expField h).isLt
  refine ⟨hexp0, by omega, by omega, by omega, by omega, fun b hb => ?_⟩
  have hz := ne_zero_of_back hb
  have hmsb := (shift_to_hidden_bit (natAbs_significand_ne_zero hz) (significand_natAbs_le h)).1
  obtain ⟨hlo, hhi⟩ := outputExponent_bounds hz
  rw [back_eq_some hb, closedNormal_k_toNat, closedNormal_exp2_toNat hz]
  exact ⟨by rw [hexp1, outputExponent]; omega, hlo, hhi⟩

/-! ### O21, O22, O23: the unwinder and the pre-shift -/

/-- Settles O21: the fill is part of the unwinder, and a negative normalized word's `mag1` is its mantissa alone. -/
theorem unwinderNegatesWithOnesFill : Obligations.UnwinderNegatesWithOnesFill := by
  refine ⟨fun mag1 => ⟨rfl, unwind_true_toNat mag1, rfl⟩, fun _ => rfl, fun h he hs => ?bit, rfl, rfl, ?value⟩
  case bit =>
    rw [mag1_of_normalized he, BitVec.getLsbD_append, hs]
    rfl
  case value =>
    rw [realOf_of_significand (v := -4096) (e := 13) (by decide) (by decide)]
    norm_num

/-- The magnitude reaches 4096 for a negative normalized word with a clear mantissa alone (R51). -/
theorem natAbs_significand_eq_4096_iff (h : Word16) :
    (significand h).natAbs = 4096 ↔ expField h ≠ 0 ∧ signField h = true ∧ mantField h = 0 := by
  have hm := (mantField h).isLt
  have hm0 : mantField h = 0 ↔ (mantField h).toNat = 0 := by bv_omega
  rw [hm0]
  by_cases he : expField h = 0
  · have hbounds := significand_subnormal_bounds he
    simp only [he, ne_eq, not_true_eq_false, false_and, iff_false]
    omega
  · rw [natAbs_significand_of_normalized he, and_iff_right he]
    cases signField h
    · simp; omega
    · simp; omega

/-- Settles O22: `mag2` is the significand's absolute value, class by class. -/
theorem unwinderGivesAbsoluteSignificand : Obligations.UnwinderGivesAbsoluteSignificand := by
  refine ⟨fun h hz => ?all, fun m hm => ?subPos, fun m => ?subNeg, fun e m he => ?norm⟩
  case all =>
    obtain ⟨hpos, hle⟩ := mag2_bounds hz
    exact ⟨mag2_toNat h, Nat.one_le_iff_ne_zero.mpr hpos, hle, by
      rw [mag2_toNat]; exact natAbs_significand_eq_4096_iff h⟩
  case subPos =>
    have he : expField (inputWord 0#4 false m) = 0 := expField_inputWord _ _ _
    rw [mag1_of_subnormal_eq_or he, mag2_toNat, natAbs_significand_subPos]
    simp
  case subNeg =>
    have he : expField (inputWord 0#4 true m) = 0 := expField_inputWord _ _ _
    rw [mag1_of_subnormal_eq_or he, mag2_toNat, natAbs_significand_subNeg]
    simp
  case norm =>
    have hpos : expField (inputWord e false m) ≠ 0 := by rwa [expField_inputWord]
    have hneg : expField (inputWord e true m) ≠ 0 := by rwa [expField_inputWord]
    rw [mag1_of_normalized_eq_or hpos, mag1_of_normalized_eq_or hneg, mag2_toNat, mag2_toNat,
      natAbs_significand_normPos he, natAbs_significand_normNeg he]
    simp

theorem msb_mul_two_pow {a : Nat} (ha : a ≠ 0) (n : Nat) : msb (a * 2 ^ n) = msb a + n := by
  induction n with
  | zero => simp
  | succ n ih =>
    have hne : a * 2 ^ n ≠ 0 := Nat.mul_ne_zero ha (Nat.two_pow_pos n).ne'
    rw [pow_succ, ← mul_assoc, mul_comm, msb, Nat.log2_two_mul hne, ← msb, ih, add_assoc]

theorem mag3_toNat {h : Word16} (hz : h ≠ 0x0000#16) :
    (signals h).mag3.toNat = (signals h).mag2.toNat * 2 ^ 11 := preShift_toNat (mag2_bounds hz).2

/-- Settles O23: a magnitude of at most 4096 has room for the pre-shift. -/
theorem preShiftLosesNoBit : Obligations.PreShiftLosesNoBit := by
  intro h hz
  obtain ⟨hpos, hle⟩ := mag2_bounds hz
  have hmag3 := mag3_toNat hz
  have hmsb : msb (signals h).mag3.toNat = msb (signals h).mag2.toNat + 11 := by
    rw [hmag3, msb_mul_two_pow hpos]
  have hmsb2 := (shift_to_hidden_bit hpos hle).1
  exact ⟨rfl, hmag3, by omega, hmsb, by omega, by omega⟩

end Sys2Proof.Machine

namespace Sys2Proof.Machine

/-! ### O24: the loop's guard and its exit -/

/-- A guard before the last round finds the magnitude below bit 23 (R53). -/
theorem leadingBitTest_before_exit {mag2 : Word32} (hle : mag2.toNat ≤ 4096) {j : Nat}
    (hj : j < 12 - msb mag2.toNat) : (preShift mag2 <<< j) &&& leadingBitTestMask = 0#32 := by
  rw [leadingBitTest_eq_zero_iff, BitVec.toNat_shiftLeft, preShift_toNat hle, Nat.shiftLeft_eq, mul_assoc, ← pow_add]
  calc mag2.toNat * 2 ^ (11 + j) % 2 ^ 32 ≤ mag2.toNat * 2 ^ (11 + j) := Nat.mod_le _ _
    _ < 2 ^ (msb mag2.toNat + 1) * 2 ^ (11 + j) :=
        Nat.mul_lt_mul_of_pos_right Nat.lt_log2_self (Nat.two_pow_pos _)
    _ ≤ 2 ^ 23 := by rw [← pow_add]; exact Nat.pow_le_pow_right two_pos (by omega)

/-- Twelve rounds are enough for every magnitude: any greater bound gives the closed form too (R54). -/
theorem normalizeLoop_preShift {mag2 : Word32} (exp1 : BitVec 8) (hpos : mag2.toNat ≠ 0) (hle : mag2.toNat ≤ 4096)
    {rounds : Nat} (hrounds : 12 ≤ rounds) :
    normalizeLoop rounds ⟨preShift mag2, exp1, 0#4⟩ = normalizeClosed mag2 (preShift mag2) exp1 := by
  obtain ⟨-, hlo, hhi⟩ := shift_to_hidden_bit hpos hle
  rw [← preShift_toNat_mul hpos hle] at hlo hhi
  have hloop := normalizeLoop_eq (rounds := rounds) (n := ⟨preShift mag2, exp1, 0#4⟩) (by omega) hlo hhi
  rw [hloop, normalizeClosed, BitVec.zero_add]

theorem getLsbD_23_of_bounds {x : Word32} (hlo : 2 ^ 23 ≤ x.toNat) (hhi : x.toNat < 2 ^ 24) :
    x.getLsbD 23 = true := by
  rw [← BitVec.testBit_toNat, Nat.testBit_eq_decide_div_mod_eq]
  simp; omega

/-- Settles O24: the loop is the closed form, whose magnitude lies in `2 ^ 23 .. 2 ^ 24 - 1`. -/
theorem normalizerLoopStopsNormalized : Obligations.NormalizerLoopStopsNormalized := by
  intro mag2 exp1 hge hle n
  have hpos : mag2.toNat ≠ 0 := by omega
  have hn : n = normalizeClosed mag2 (preShift mag2) exp1 := normalize_eq_normalizeClosed exp1 hpos hle
  obtain ⟨hmsb, hlo, hhi⟩ := shift_to_hidden_bit hpos hle
  rw [← normalizeClosed_mag4_toNat exp1 hpos hle, ← hn] at hlo hhi
  have hk : n.k.toNat = 12 - msb mag2.toNat := by
    rw [hn, normalizeClosed, BitVec.toNat_ofNat]; omega
  refine ⟨?mag4, ?exp2, by omega, fun j hj => ?before, ?after, getLsbD_23_of_bounds hlo hhi, ?clear,
    fun rounds hrounds => ?bound⟩
  case mag4 => rw [hk, hn]; rfl
  case exp2 =>
    have hwide : n.k.setWidth 8 = BitVec.ofNat 8 (12 - msb mag2.toNat) := by
      rw [← BitVec.ofNat_toNat, hk]
    rw [hwide, hn]; rfl
  case before => exact leadingBitTest_before_exit hle (hk ▸ hj)
  case after => rw [ne_eq, leadingBitTest_eq_zero_iff]; omega
  case clear =>
    apply BitVec.eq_of_toNat_eq
    rw [BitVec.toNat_ushiftRight, Nat.shiftRight_eq_div_pow, Nat.div_eq_of_lt hhi]; rfl
  case bound => rw [hn, normalizeLoop_preShift exp1 hpos hle hrounds]

/-! ### O25: the shift count per class -/

theorem msb_le_of_lt {a n : Nat} (ha : a ≠ 0) (hlt : a < 2 ^ (n + 1)) : msb a ≤ n :=
  Nat.lt_succ_iff.mp ((Nat.log2_lt ha).mpr hlt)

/-- A positive subnormal magnitude keeps its leading bit below bit 11. -/
theorem msb_mantissa_le {m : Mantissa} (hm : m ≠ 0) : msb m.toNat ≤ 10 :=
  msb_le_of_lt (by bv_omega) m.isLt

theorem msb_subNeg_le (m : Mantissa) : msb (2048 - m.toNat) ≤ 11 := by
  have hm := m.isLt
  exact msb_le_of_lt (by omega) (by omega)

theorem msb_normPos (m : Mantissa) : msb (2048 + m.toNat) = 11 := by
  have hm := m.isLt
  exact msb_eq_eleven (by omega) (by omega)

theorem msb_normNeg (m : Mantissa) : msb (4096 - m.toNat) = if m = 0 then 12 else 11 := by
  have hlt := m.isLt
  split
  case isTrue hm => subst hm; decide
  case isFalse hm =>
    have hpos : m.toNat ≠ 0 := by bv_omega
    exact msb_eq_eleven (by omega) (by omega)

/-- Settles O25: the count is `12 - msb |v|`, and each class bounds `|v|`. -/
theorem barrelShifterEqualsLoop : Obligations.BarrelShifterEqualsLoop := by
  refine ⟨fun mag2 exp1 hge hle => ⟨normalize_eq_normalizeClosed exp1 (by omega) hle, ?index⟩,
    fun m hm x hx => ?subPos, fun m x hx => ?subNeg, fun e m he => ⟨fun x hx => ?normPos, fun x hx => ?normNeg⟩,
    by decide, by decide, by decide⟩
  case index =>
    rw [preShift_toNat hle, msb_mul_two_pow (by omega)]
    omega
  case subPos =>
    have hk := (shiftTrace_count hx).2
    rw [natAbs_significand_subPos] at hk
    have hmsb := msb_mantissa_le hm
    refine ⟨hk, by omega, by omega, fun hge => ?_⟩
    have hten : msb m.toNat = 10 := (Nat.log2_eq_iff (by omega)).mpr ⟨hge, m.isLt⟩
    omega
  case subNeg =>
    have hk := (shiftTrace_count hx).2
    rw [natAbs_significand_subNeg] at hk
    have hmsb := msb_subNeg_le m
    exact ⟨hk, by omega, by omega⟩
  case normPos => rw [(shiftTrace_count hx).2, natAbs_significand_normPos he, msb_normPos]
  case normNeg =>
    rw [(shiftTrace_count hx).2, natAbs_significand_normNeg he, msb_normNeg]
    split <;> rfl

/-! ### O26: the packer -/

theorem hsnrToF32_eq_pack {h : Word16} (hz : h ≠ 0x0000#16) :
    hsnrToF32 h
      = pack (targetSign (signField h)) (closedNormal h).exp2 (fraction (closedNormal h).mag4) := by
  have hback := signals_back_of_ne_zero hz
  rw [back_eq_closed hz, Option.some_inj] at hback
  obtain ⟨hnormal, -, hpacked⟩ := BackSignals.mk.injEq .. ▸ hback
  rw [hpacked, hnormal]; rfl

/-- Widening the fraction undoes the narrowing: the mask has cleared the bits above it (R55). -/
theorem fraction_setWidth (mag4 : Word32) : (fraction mag4).setWidth 32 = mag4 &&& 0x007FFFFF#32 := by
  have hmask : (0x007FFFFF#32).toNat = 2 ^ 23 - 1 := rfl
  apply BitVec.eq_of_toNat_eq
  rw [BitVec.toNat_setWidth_of_le (by decide), fraction_toNat, BitVec.toNat_and, hmask,
    Nat.and_two_pow_sub_one_eq_mod]

/-- Settles O26: the normalized magnitude has bit 23 as its only bit above the fraction. -/
theorem packerConcatenatesFields : Obligations.PackerConcatenatesFields := by
  intro h b hb
  have hz := ne_zero_of_back hb
  obtain ⟨hlo, hhi⟩ := closedNormal_mag4_bounds hz
  obtain rfl := back_eq_some hb
  refine ⟨fraction_setWidth _, ?hidden, hsnrToF32_eq_pack hz, ?concat⟩
  case hidden => simp only [fraction_toNat]; omega
  case concat => rw [hsnrToF32_eq_pack hz, pack_targetSign]; rfl

/-! ### O27: the datapath at any width -/

/-- The unwinder's fill with ones is `-4096` at every width (R50, R57). -/
theorem unwindAt_true {W : Nat} (mag1 : BitVec 12) :
    unwindAt W true mag1 = BitVec.twoPow W 12 - mag1.setWidth W := by
  have hfill : BitVec.allOnes W <<< 12 = -BitVec.twoPow W 12 := by
    rw [BitVec.shiftLeft_eq_mul_twoPow, ← BitVec.neg_one_eq_allOnes, BitVec.neg_mul, BitVec.one_mul]
  have hdisjoint : mag1.setWidth W &&& (BitVec.allOnes W <<< 12) = 0#W := by
    apply BitVec.eq_of_getLsbD_eq
    intro i hi
    rw [BitVec.getLsbD_and, BitVec.getLsbD_setWidth, BitVec.getLsbD_shiftLeft]
    by_cases hlow : i < 12
    · simp [hlow]
    · simp [BitVec.getLsbD_of_ge mag1 i (by omega)]
  rw [unwindAt, if_pos rfl, ← BitVec.add_eq_or_of_and_eq_zero _ _ hdisjoint, hfill,
    ← BitVec.sub_eq_add_neg, BitVec.neg_sub, BitVec.sub_eq_add_neg, BitVec.add_comm]

theorem unwindAt_toNat {W : Nat} (hW : 24 ≤ W) (s : Bool) (mag1 : BitVec 12) :
    (unwindAt W s mag1).toNat = (unwind s mag1).toNat := by
  have hlt := mag1.isLt
  have hpow : 2 ^ 24 ≤ 2 ^ W := Nat.pow_le_pow_right two_pos hW
  have hwide : (mag1.setWidth W).toNat = mag1.toNat := BitVec.toNat_setWidth_of_le (by omega)
  cases s
  · rw [unwind_false_toNat]; exact hwide
  · have hfill : (BitVec.twoPow W 12).toNat = 4096 := by
      exact BitVec.toNat_twoPow_of_lt (by omega)
    rw [unwind_true_toNat, unwindAt_true, BitVec.toNat_sub_of_le (by rw [BitVec.le_def]; omega), hfill, hwide]

/-- A loop of any width of 24 bits or more makes the shifts that bring the leading bit to position 23 (R57). -/
theorem normalizeLoopAt_eq {W k rounds : Nat} {mag4 : BitVec W} {exp2 : BitVec 8} (hW : 24 ≤ W) (hk : k ≤ rounds)
    (hlo : 2 ^ 23 ≤ mag4.toNat * 2 ^ k) (hhi : mag4.toNat * 2 ^ k < 2 ^ 24) :
    normalizeLoopAt W rounds mag4 exp2 = (mag4 <<< k, exp2 - BitVec.ofNat 8 k) := by
  have hpow : 2 ^ 24 ≤ 2 ^ W := Nat.pow_le_pow_right two_pos hW
  have hguard : ∀ x : BitVec W, x >>> 23 = 0#W ↔ x.toNat < 2 ^ 23 := by
    intro x
    rw [← BitVec.toNat_inj, BitVec.toNat_ushiftRight, Nat.shiftRight_eq_div_pow, BitVec.toNat_zero]
    omega
  induction k generalizing rounds mag4 exp2 with
  | zero =>
    have hstop : ¬ mag4 >>> 23 = 0#W := by rw [hguard]; omega
    cases rounds <;> simp [normalizeLoopAt, hstop]
  | succ k ih =>
    obtain ⟨rounds, rfl⟩ : ∃ r, rounds = r + 1 := ⟨rounds - 1, by omega⟩
    rw [show mag4.toNat * 2 ^ (k + 1) = mag4.toNat * 2 * 2 ^ k by ring] at hlo hhi
    have hclear : mag4.toNat < 2 ^ 23 := by
      have := (Nat.le_mul_of_pos_right (mag4.toNat * 2) (Nat.two_pow_pos k)).trans_lt hhi
      omega
    have hdouble : (mag4 <<< 1).toNat = mag4.toNat * 2 := by
      rw [BitVec.toNat_shiftLeft, Nat.shiftLeft_eq, Nat.mod_eq_of_lt (by omega)]
    rw [normalizeLoopAt, if_pos ((hguard _).mpr hclear), ih (by omega) (by rwa [hdouble]) (by rwa [hdouble])]
    simp only [Prod.mk.injEq, ← BitVec.shiftLeft_add, Nat.add_comm 1 k, BitVec.ofNat_add, true_and]
    bv_omega

/-- What enters the loop is the reference's magnitude, whatever the width (R57). -/
theorem mag3At_toNat {W : Nat} (hW : 24 ≤ W) {h : Word16} (hz : h ≠ 0x0000#16) :
    (unwindAt W (signFlag h) (signals h).mag1 <<< preShiftDistance).toNat
      = (preShift (signals h).mag2).toNat := by
  have hpow : 2 ^ 24 ≤ 2 ^ W := Nat.pow_le_pow_right two_pos hW
  have hle := (mag2_bounds hz).2
  have hmag2 : (unwindAt W (signFlag h) (signals h).mag1).toNat = (signals h).mag2.toNat := unwindAt_toNat hW _ _
  have hdist : preShiftDistance = 11 := rfl
  rw [preShift_toNat hle, BitVec.toNat_shiftLeft, hmag2, Nat.shiftLeft_eq, hdist]
  exact Nat.mod_eq_of_lt (by omega)

/-- The barrel shift at any width leaves the reference's fraction in the low 23 bits. -/
theorem setWidth_shiftAt_eq_fraction {W : Nat} (hW : 24 ≤ W) {h : Word16} (hz : h ≠ 0x0000#16) {mag3 : BitVec W}
    (hmag3 : mag3.toNat = (preShift (signals h).mag2).toNat) :
    (mag3 <<< (12 - msb (signals h).mag2.toNat)).setWidth 23 = fraction (closedNormal h).mag4 := by
  have hpow : 2 ^ 24 ≤ 2 ^ W := Nat.pow_le_pow_right two_pos hW
  obtain ⟨hpos, hle⟩ := mag2_bounds hz
  have hhi := (shift_to_hidden_bit hpos hle).2.2
  apply BitVec.eq_of_toNat_eq
  rw [fraction_toNat, closedNormal, normalizeClosed_mag4_toNat _ hpos hle, BitVec.toNat_setWidth,
    BitVec.toNat_shiftLeft, Nat.shiftLeft_eq, hmag3, preShift_toNat_mul hpos hle,
    Nat.mod_eq_of_lt (hhi.trans_le hpow)]

/-- Settles O27: at every width the magnitude before the loop is the reference's, and the loop makes the same shifts. -/
theorem workingWidthDoesNotMatter : Obligations.WorkingWidthDoesNotMatter := by
  intro W h hW
  by_cases hz : h = 0x0000#16
  case pos => subst hz; rfl
  case neg =>
    obtain ⟨hpos, hle⟩ := mag2_bounds hz
    have hmag3 := mag3At_toNat hW hz
    obtain ⟨-, hlo, hhi⟩ := shift_to_hidden_bit hpos hle
    rw [← preShift_toNat_mul hpos hle, ← hmag3] at hlo hhi
    have hrounds : 12 - msb (signals h).mag2.toNat ≤ W := by omega
    have hzero : isZero h = false := by simpa [isZero] using hz
    simp only [hsnrToF32At, hzero, normalizeLoopAt_eq hW hrounds hlo hhi,
      setWidth_shiftAt_eq_fraction hW hz hmag3, hsnrToF32_eq_pack hz]
    rfl

/-! ### O33, O37: a step gives the output of the word presented -/

/-- Settles O33: both steps read the same word off the port, and each leaves DECODE of it. -/
theorem outputDependsOnTheInputAlone : Obligations.OutputDependsOnTheInputAlone := by
  intro s s' t t' hin hst hst'
  obtain ⟨h, hw, rfl⟩ := step_next_cases hst
  obtain ⟨h', hw', rfl⟩ := step_next_cases hst'
  rw [hin, hw', Option.some_inj] at hw
  rw [hw]; rfl

/-- A step that presents a word evaluates it. -/
theorem step_of_word {s : State} {h : Word16} (hw : s.presentNext.hsnrIn.word? = some h) :
    step s = .next (s.presentNext.evaluate h) := by
  have hport : decodePort s.presentNext.hsnrIn = .ok (decode h) := by rw [decodePort, hw]
  have hexec := exec_eq_evaluate (decode h) s.presentNext
  rw [encode_decode] at hexec
  rw [step, hport, ← hexec]

theorem outExponent_ne_255 (h : Word16) : outExponent (hsnrToF32 h) ≠ 255#8 := by
  by_cases hz : h = 0x0000#16
  · subst hz; decide
  · have hE := outExponent_hsnrToF32 hz
    have hhi := (outputExponent_bounds hz).2
    bv_omega

/-- Settles O37: every output has a value (R63), and a step that presents the word leaves it. -/
theorem everyWordHasAFiniteOutput : Obligations.EveryWordHasAFiniteOutput := by
  intro h
  refine ⟨outExponent_ne_255 h, ⟨_, realOf_hsnrToF32 h⟩, fun b hb => ?rounds, fun s hw => ⟨_, step_of_word hw, rfl⟩⟩
  case rounds =>
    have hlo := (closedNormal_mag4_bounds (ne_zero_of_back hb)).1
    rw [back_eq_some hb, closedNormal_k_toNat, ne_eq, leadingBitTest_eq_zero_iff]
    exact ⟨Nat.sub_le 12 _, Nat.not_lt.mpr hlo⟩

end Sys2Proof.Machine

namespace Sys2Proof.Machine

/-! ### O29, O31: exact values, bands and range -/

theorem exists_mantissa {n : Nat} (hn : n < 2048) : ∃ m : Mantissa, m.toNat = n :=
  ⟨BitVec.ofNat 11 n, by rw [BitVec.toNat_ofNat]; omega⟩

/-- R64 for the subnormal regime: the words reach every integer of the band. -/
theorem exists_subnormal_iff (v : ℤ) :
    (∃ h : Word16, expField h = 0 ∧ significand h = v) ↔ -2048 ≤ v ∧ v ≤ 2047 := by
  constructor
  · rintro ⟨h, he, rfl⟩
    exact significand_subnormal_bounds he
  · rintro ⟨hlo, hhi⟩
    rcases lt_or_ge v 0 with hneg | hnn
    · obtain ⟨m, hm⟩ := exists_mantissa (n := (v + 2048).toNat) (by omega)
      exact ⟨inputWord 0#4 true m, expField_inputWord _ _ _, by rw [significand_subNeg]; omega⟩
    · obtain ⟨m, hm⟩ := exists_mantissa (n := v.toNat) (by omega)
      exact ⟨inputWord 0#4 false m, expField_inputWord _ _ _, by rw [significand_subPos]; omega⟩

/-- The two bands of a normalized word (R35). -/
theorem significand_normalized_bands {h : Word16} (he : expField h ≠ 0) :
    (2048 ≤ significand h ∧ significand h ≤ 4095) ∨ (-4096 ≤ significand h ∧ significand h ≤ -2049) := by
  have hm := (mantField h).isLt
  rw [significand_of_normalized he]
  split <;> omega

/-- R64 for each exponent of the normalized regime: the words reach every integer of the two bands. -/
theorem exists_normalized_iff {e : BitVec 4} (he : e ≠ 0) (v : ℤ) :
    (∃ h : Word16, expField h = e ∧ significand h = v)
      ↔ (2048 ≤ v ∧ v ≤ 4095) ∨ (-4096 ≤ v ∧ v ≤ -2049) := by
  constructor
  · rintro ⟨h, rfl, rfl⟩
    exact significand_normalized_bands he
  · rintro (⟨hlo, hhi⟩ | ⟨hlo, hhi⟩)
    · obtain ⟨m, hm⟩ := exists_mantissa (n := (v - 2048).toNat) (by omega)
      exact ⟨inputWord e false m, expField_inputWord _ _ _, by rw [significand_normPos he]; omega⟩
    · obtain ⟨m, hm⟩ := exists_mantissa (n := (v + 4096).toNat) (by omega)
      exact ⟨inputWord e true m, expField_inputWord _ _ _, by rw [significand_normNeg he]; omega⟩

/-- Settles O29: the value of R63 with the bands of both regimes. -/
theorem outputIsExactlyTheScaledSignificand : Obligations.OutputIsExactlyTheScaledSignificand :=
  ⟨realOf_hsnrToF32, fun h => ⟨significand_natAbs_le h, hsnrToF32_low_bits h⟩, exists_subnormal_iff,
    fun _ v he => exists_normalized_iff he v⟩

/-- The value of an output pattern from the significand and exponent of a word that gives it. -/
theorem realOf_of_output {h : Word16} {F : Word32} {v : ℤ} {e : Nat} (hF : hsnrToF32 h = F) (hv : significand h = v)
    (he : max (expField h).toNat 1 = e) : realOf F = some (v * (2 : ℚ) ^ (e - 25 : ℤ)) :=
  hF ▸ realOf_of_significand hv he

theorem realOf_four : realOf 0x40800000#32 = some 4 := by
  have hE : (outExponent 0x40800000#32).toNat = 129 := rfl
  have hf : (outFraction 0x40800000#32).toNat = 0 := rfl
  have hs : outSign 0x40800000#32 = false := rfl
  rw [realOf_of_normal (by decide) (by decide), hE, hf, hs]
  norm_num

/-- `+4.0` would need the significand 4096, which the positive side does not have (R65). -/
theorem hsnrToF32_ne_four (h : Word16) : hsnrToF32 h ≠ 0x40800000#32 := by
  intro hfour
  have hvalue := realOf_eq_some_iff.mp (hfour ▸ realOf_four : realOf (hsnrToF32 h) = some 4)
  have hle := hvalue ▸ value_le h
  norm_num at hle

/-- Settles O31: the bounds of the significand and of its scale. -/
theorem outputRange : Obligations.OutputRange := by
  refine ⟨fun h hz => ?normal, rfl, ?max, ?min, realOf_four, hsnrToF32_ne_four⟩
  case normal =>
    have hle := value_le h
    have hge := value_ge h
    have htop : 4095 * (2 : ℚ) ^ (-10 : ℤ) = 4095 / 1024 := by norm_num
    rw [htop] at hle
    rw [outExponent_hsnrToF32 hz]
    exact ⟨(outputExponent_bounds hz).1, (outputExponent_bounds hz).2, _, realOf_eq_some_iff.mpr rfl,
      abs_value_ge hz, abs_le.mpr ⟨hge, by linarith⟩, hle, hge⟩
  case max =>
    rw [realOf_of_significand (v := 4095) (e := 15) (by decide) (by decide)]
    norm_num
  case min =>
    rw [realOf_of_significand (v := -4096) (e := 15) (by decide) (by decide)]
    norm_num

/-! ### O11: the zero word -/

/-- Settles O11: every other word's exponent field is at least 103. -/
theorem zeroGivesPlusZeroAlone : Obligations.ZeroGivesPlusZeroAlone := by
  refine ⟨rfl, rfl, fun _ => rfl, rfl, rfl, fun h hzero => ?_, hsnrToF32_ne_negZero⟩
  by_contra hz
  have hE : outExponent (hsnrToF32 h) = 0#8 := by
    rw [isZeroPattern, Bool.and_eq_true, beq_iff_eq] at hzero
    exact hzero.1
  have hlo := (outputExponent_bounds hz).1
  rw [← outExponent_hsnrToF32 hz, hE, BitVec.toNat_zero] at hlo
  omega

/-- Only the zero word has the value 0. -/
theorem ne_zero_of_value {h : Word16} {q : ℚ} (hq : realOf (hsnrToF32 h) = some q) (hq0 : q ≠ 0) :
    h ≠ 0x0000#16 := by
  rintro rfl
  have hsig : significand 0x0000#16 = 0 := by decide
  rw [realOf_eq_some_iff, hsig, Int.cast_zero, zero_mul] at hq
  exact hq0 hq.symm

/-! ### O12, O13: the subnormal rows -/

/-- Running an instruction leaves DECODE of its word on the output and nothing else changed. -/
theorem exec_eq_of_encode {i : Instr} {h : Word16} (hi : encode i = h) (s : State) :
    exec i s = .next { s with f32Out := hsnrToF32 h } := by
  rw [exec_eq_evaluate, hi]; rfl

theorem outputExponent_subnormal_word (s : Bool) (m : Mantissa) :
    outputExponent (inputWord 0#4 s m) = 103 + msb (significand (inputWord 0#4 s m)).natAbs :=
  outputExponent_of_subnormal (expField_inputWord _ _ _)

/-- A subnormal word's value is its significand in units of `2 ^ -24` (R34). -/
theorem realOf_subnormal_word (s : Bool) (m : Mantissa) :
    realOf (hsnrToF32 (inputWord 0#4 s m))
      = some (significand (inputWord 0#4 s m) * (2 : ℚ) ^ (-24 : ℤ)) :=
  realOf_hsnrToF32_of_subnormal (expField_inputWord _ _ _)

theorem hsnrToF32_subnormal_word {s : Bool} {m : Mantissa} (hz : inputWord 0#4 s m ≠ 0x0000#16) :
    hsnrToF32 (inputWord 0#4 s m)
      = outWord s (BitVec.ofNat 8 (103 + msb (significand (inputWord 0#4 s m)).natAbs))
          (placedFraction (significand (inputWord 0#4 s m)).natAbs) := by
  rw [hsnrToF32_eq_outWord hz, signField_inputWord, outputExponent_subnormal_word]

theorem groupField_getLsbD_eleven (h : Word16) : (groupField h).getLsbD 11 = signField h := by
  simp [groupField, signField]

/-- Settles O12: the magnitude of `{0000, 0, m}` is `m`. -/
theorem subPosResult : Obligations.SubPosResult := by
  refine ⟨fun m s hm => ?row, rfl, rfl, fun h q hq hpos => ?smallest, fun h x hx => ?count, rfl, ?top,
    fun m hm q hq => ?greatest⟩
  case row =>
    intro h k
    have hz : h ≠ 0x0000#16 := inputWord_ne_zero_of_mant 0#4 false hm
    have hmsb := msb_mantissa_le hm
    have hE : 103 + msb m.toNat = 115 - k := by omega
    refine ⟨rfl, decode_subPos hm, ?exec, ?trace, ?value, ?bit⟩
    case exec =>
      rw [exec_eq_of_encode (encode_eq_inputWord (e := 0#4) (s := false) rfl), Instr.operand,
        hsnrToF32_subnormal_word hz, natAbs_significand_subPos, hE]
    case trace => rw [shiftTrace_eq hz, outputExponent_subnormal_word, natAbs_significand_subPos, hE]
    case value =>
      rw [realOf_subnormal_word, significand_subPos]; rfl
    case bit =>
      have he : expField h = 0 := expField_inputWord _ _ _
      rw [mag1_of_subnormal he, groupField_getLsbD_eleven, signField_inputWord]
  case smallest =>
    have hge := abs_value_ge (ne_zero_of_value hq hpos.ne')
    rwa [realOf_eq_some_iff.mp hq, abs_of_pos hpos] at hge
  case count => rw [(shiftTrace_count hx).2]; exact Nat.sub_le 12 _
  case top =>
    rw [realOf_of_significand (v := 2047) (e := 1) (by decide) (by decide)]
    norm_num
  case greatest =>
    have hlt : (m.toNat : ℚ) ≤ 2047 := by exact_mod_cast Nat.le_of_lt_succ m.isLt
    rw [realOf_subnormal_word, significand_subPos, Option.some_inj, Int.cast_natCast] at hq
    rw [← hq]
    gcongr

/-- Settles O13: the magnitude of `{0000, 1, m}` is `2048 - m`. -/
theorem subNegResult : Obligations.SubNegResult := by
  refine ⟨fun m s => ?row, rfl, ?lowest, rfl, fun h he q hq => ?least, rfl, ?highest, rfl⟩
  case row =>
    intro h a k
    have hz : h ≠ 0x0000#16 := inputWord_true_ne_zero 0#4 m
    have hmsb : msb a ≤ 11 := msb_subNeg_le m
    have hE : 103 + msb a = 115 - k := by omega
    have ha : (significand h).natAbs = a := natAbs_significand_subNeg m
    refine ⟨rfl, isRow_subNeg.decode m, ?exec, ?trace, ?value, ?group⟩
    case exec =>
      rw [exec_eq_of_encode (encode_of_isRow isRow_subNeg m), hsnrToF32_subnormal_word hz, ha, hE]
    case trace => rw [shiftTrace_eq hz, outputExponent_subnormal_word, ha, hE]
    case value =>
      rw [realOf_subnormal_word, significand_subNeg]; push_cast; ring_nf
    case group =>
      have hgroup : significand h = (groupField h).toInt := if_pos (expField_inputWord _ _ _)
      rw [realOf_subnormal_word, ← hgroup]
  case lowest =>
    rw [realOf_of_output (h := 0x0800#16) (F := 0xB9000000#32) (v := -2048) (e := 1) rfl (by decide) (by decide)]
    norm_num
  case least =>
    have hv : (-2048 : ℚ) ≤ significand h := by exact_mod_cast (significand_subnormal_bounds he).1
    rw [realOf_hsnrToF32_of_subnormal he, Option.some_inj] at hq
    calc -((2 : ℚ) ^ (-13 : ℤ)) = -2048 * (2 : ℚ) ^ (-24 : ℤ) := by norm_num
      _ ≤ significand h * (2 : ℚ) ^ (-24 : ℤ) := by gcongr
      _ = q := hq
  case highest =>
    rw [realOf_of_output (h := 0x0FFF#16) (F := 0xB3800000#32) (v := -1) (e := 1) rfl (by decide) (by decide)]
    norm_num

/-! ### O14, O15: the normalized rows -/

/-- A normalized word's output from the leading bit of its significand. -/
theorem hsnrToF32_normalized_word {e : BitVec 4} (he : e ≠ 0) (s : Bool) (m : Mantissa) :
    hsnrToF32 (inputWord e s m)
      = outWord s (BitVec.ofNat 8 (e.toNat + 102 + msb (significand (inputWord e s m)).natAbs))
          (placedFraction (significand (inputWord e s m)).natAbs) := by
  have hone : 1 ≤ e.toNat := by bv_omega
  rw [hsnrToF32_eq_outWord (inputWord_ne_zero_of_exp he s m), signField_inputWord, outputExponent,
    expField_inputWord, max_eq_left hone]

theorem shiftTrace_normalized_word {e : BitVec 4} (he : e ≠ 0) (s : Bool) (m : Mantissa) :
    shiftTrace (inputWord e s m)
      = some ((significand (inputWord e s m)).natAbs, 12 - msb (significand (inputWord e s m)).natAbs,
          e.toNat + 102 + msb (significand (inputWord e s m)).natAbs) := by
  have hone : 1 ≤ e.toNat := by bv_omega
  rw [shiftTrace_eq (inputWord_ne_zero_of_exp he s m), outputExponent, expField_inputWord, max_eq_left hone]

theorem realOf_normalized_word {e : BitVec 4} (he : e ≠ 0) (s : Bool) (m : Mantissa) :
    realOf (hsnrToF32 (inputWord e s m))
      = some (significand (inputWord e s m) * (2 : ℚ) ^ (e.toNat - 25 : ℤ)) := by
  rw [realOf_hsnrToF32_of_normalized (by rwa [expField_inputWord]), expField_inputWord]

theorem append_zeros_toNat (m : Mantissa) : (m ++ 0#12).toNat = m.toNat * 2 ^ 12 := by
  rw [BitVec.toNat_append, BitVec.toNat_zero, Nat.or_zero, Nat.shiftLeft_eq]

/-- The mantissa is the upper part of the fraction (R61). -/
theorem placedFraction_normPos (m : Mantissa) : placedFraction (2048 + m.toNat) = m ++ 0#12 := by
  have hm := m.isLt
  rw [placedFraction_of_twelve_bits (by omega) (by omega), ofNat_hidden_add_mantissa]
  apply BitVec.eq_of_toNat_eq
  rw [append_zeros_toNat, BitVec.toNat_shiftLeft, BitVec.toNat_setWidth_of_le (by decide), Nat.shiftLeft_eq]
  omega

theorem hsnrToF32_normPos {e : BitVec 4} (he : e ≠ 0) (m : Mantissa) :
    hsnrToF32 (inputWord e false m) = outWord false (BitVec.ofNat 8 (e.toNat + 113)) (m ++ 0#12) := by
  rw [hsnrToF32_normalized_word he, natAbs_significand_normPos he, msb_normPos, placedFraction_normPos]

/-- The positive output as the shifted exponent ORed with the shifted mantissa (R61). -/
theorem outWord_false_eq_or (E : BitVec 8) (m : Mantissa) :
    outWord false E (m ++ 0#12) = (E.setWidth 32 <<< 23) ||| (m.setWidth 32 <<< 12) := by
  have hm := m.isLt
  have hfrac : (m ++ 0#12).setWidth 32 = m.setWidth 32 <<< 12 := by
    apply BitVec.eq_of_toNat_eq
    rw [BitVec.toNat_setWidth, append_zeros_toNat, BitVec.toNat_shiftLeft, BitVec.toNat_setWidth_of_le (by decide),
      Nat.shiftLeft_eq]
  rw [← pack_targetSign, ← hfrac, pack]
  exact congrArg (· ||| _) BitVec.zero_or

theorem hsnrToF32_normNeg {e : BitVec 4} (he : e ≠ 0) (m : Mantissa) :
    hsnrToF32 (inputWord e true m)
      = if m = 0 then outWord true (BitVec.ofNat 8 (e.toNat + 114)) 0#23
        else outWord true (BitVec.ofNat 8 (e.toNat + 113)) (BitVec.ofNat 23 ((4096 - m.toNat) <<< 12)) := by
  rw [hsnrToF32_normalized_word he, natAbs_significand_normNeg he, msb_normNeg]
  split
  case isTrue hm => subst hm; rfl
  case isFalse hm =>
    have hlt := m.isLt
    have hpos : m.toNat ≠ 0 := by bv_omega
    rw [placedFraction_of_twelve_bits (by omega) (by omega)]

/-- The match bits of a normalized row hold the exponent and the sign (R36). -/
theorem inputWord_false_zero (e : BitVec 4) : inputWord e false 0 = BitVec.ofNat 16 (e.toNat <<< 12) := by
  revert e; decide

theorem inputWord_true_zero (e : BitVec 4) :
    inputWord e true 0 = BitVec.ofNat 16 ((e.toNat <<< 12) ||| 0x0800) := by
  revert e; decide

theorem realOf_normPos {e : BitVec 4} (he : e ≠ 0) (m : Mantissa) :
    realOf (hsnrToF32 (inputWord e false m)) = some ((2048 + m.toNat) * (2 : ℚ) ^ ((e.toNat : ℤ) - 25)) := by
  rw [realOf_normalized_word he, significand_normPos he]
  push_cast
  rfl

theorem realOf_normNeg {e : BitVec 4} (he : e ≠ 0) (m : Mantissa) :
    realOf (hsnrToF32 (inputWord e true m)) = some (-(4096 - (m.toNat : ℚ)) * (2 : ℚ) ^ ((e.toNat : ℤ) - 25)) := by
  rw [realOf_normalized_word he, significand_normNeg he, neg_sub]
  push_cast
  rfl

/-- A scale raised by `n` exponent steps, in the value's two forms (R61, R62) and between two regimes. -/
theorem two_zpow_add_natCast (a : ℤ) (n : Nat) : (2 : ℚ) ^ (a + n) = 2 ^ a * 2 ^ n := by
  rw [zpow_add₀ two_ne_zero, zpow_natCast]

/-- Settles O14: the magnitude of `{e, 0, m}` is `2048 + m`, of 12 bits. -/
theorem normPosResult : Obligations.NormPosResult := by
  refine ⟨?row, ?smallest, fun h he q hq hpos => ?least, rfl, ?largest, fun h q hq => ?greatest, rfl⟩
  case row =>
    rintro ⟨e, c⟩ hec m s
    obtain ⟨hne : BitVec.ofNat 4 e ≠ 0, htoNat : (BitVec.ofNat 4 e).toNat = e, hrow : IsRow (BitVec.ofNat 4 e) false c⟩ :=
      isRow_of_mem_normPosCtors hec
    have hout := hsnrToF32_normPos hne m
    have hreal := realOf_normPos hne m
    rw [htoNat] at hout hreal
    refine ⟨hrow.mask m, ?bits, hrow.decode m, ?exec, hout, ?trace, hreal, ?unit⟩
    case bits => rw [hrow.matchBits, inputWord_false_zero, htoNat]
    case exec =>
      have hwide : (BitVec.ofNat 8 (e + 113)).setWidth 32 = BitVec.ofNat 32 (e + 113) :=
        BitVec.setWidth_ofNat_of_le_of_lt (by decide) (by omega)
      rw [exec_eq_of_encode (encode_of_isRow hrow m), hout, outWord_false_eq_or, hwide]
    case trace =>
      rw [shiftTrace_normalized_word hne, natAbs_significand_normPos hne, msb_normPos, htoNat]
    case unit =>
      have hscale := two_zpow_add_natCast ((e : ℤ) - 25) 11
      rw [show (e : ℤ) - 25 + (11 : Nat) = e - 14 by push_cast; ring] at hscale
      rw [hreal, hscale]
      ring_nf
  case smallest =>
    rw [realOf_of_significand (v := 2048) (e := 1) (by decide) (by decide)]
    norm_num
  case least =>
    rw [realOf_eq_some_iff] at hq
    have hvpos : (0 : ℚ) < significand h := (mul_pos_iff_of_pos_right (outputScale_pos h)).mp (hq ▸ hpos)
    have hv : (2048 : ℚ) ≤ significand h := by
      have hbands := significand_normalized_bands he
      have hvpos : 0 < significand h := by exact_mod_cast hvpos
      exact_mod_cast (by omega : 2048 ≤ significand h)
    calc (2 : ℚ) ^ (-13 : ℤ) = 2048 * (2 : ℚ) ^ (-24 : ℤ) := by norm_num
      _ ≤ significand h * outputScale h := le_mul_outputScale (by norm_num) hv
      _ = q := hq
  case largest =>
    rw [realOf_of_significand (v := 4095) (e := 15) (by decide) (by decide)]
    norm_num
  case greatest => exact realOf_eq_some_iff.mp hq ▸ value_le h

/-- Settles O15: the magnitude of `{e, 1, m}` is `4096 - m`, of 12 bits but for `m = 0`. -/
theorem normNegResult : Obligations.NormNegResult := by
  refine ⟨?row, fun h x hx hk => ?unshifted, rfl, ?minimum, fun h q hq => ?least, rfl, ?next, rfl, ?nearest, rfl⟩
  case row =>
    rintro ⟨e, c⟩ hec m s
    obtain ⟨hne : BitVec.ofNat 4 e ≠ 0, htoNat : (BitVec.ofNat 4 e).toNat = e, hrow : IsRow (BitVec.ofNat 4 e) true c⟩ :=
      isRow_of_mem_normNegCtors hec
    have hreal := realOf_normNeg hne m
    rw [htoNat] at hreal
    refine ⟨hrow.mask m, ?bits, hrow.decode m, ?exec, ?trace, hreal, fun hm => ?power⟩
    case bits => rw [hrow.matchBits, inputWord_true_zero, htoNat]
    case exec => rw [exec_eq_of_encode (encode_of_isRow hrow m), hsnrToF32_normNeg hne, htoNat]
    case trace =>
      rw [shiftTrace_normalized_word hne, natAbs_significand_normNeg hne, msb_normNeg, htoNat]
      split
      case isTrue hm => subst hm; rfl
      case isFalse => rfl
    case power =>
      have hscale := two_zpow_add_natCast ((e : ℤ) - 25) 12
      rw [show (e : ℤ) - 25 + (12 : Nat) = e - 13 by push_cast; ring] at hscale
      have hm0 : m.toNat = 0 := by rw [hm]; rfl
      rw [hreal, hm0, hscale]
      ring_nf
  case unshifted =>
    obtain ⟨hz, hcount⟩ := shiftTrace_count hx
    have hmsb : 12 ≤ msb (significand h).natAbs := by omega
    have hge := (Nat.le_log2 (natAbs_significand_ne_zero hz)).mp hmsb
    exact (natAbs_significand_eq_4096_iff h).mp (le_antisymm (significand_natAbs_le h) hge)
  case minimum =>
    rw [realOf_of_output (h := 0xF800#16) (F := 0xC0800000#32) (v := -4096) (e := 15) rfl (by decide) (by decide)]
    norm_num
  case least => exact realOf_eq_some_iff.mp hq ▸ value_ge h
  case next =>
    rw [realOf_of_output (h := 0xF801#16) (F := 0xC07FF000#32) (v := -4095) (e := 15) rfl (by decide) (by decide)]
    norm_num
  case nearest =>
    rw [realOf_of_output (h := 0x1FFF#16) (F := 0xB9001000#32) (v := -2049) (e := 1) rfl (by decide) (by decide)]
    norm_num

end Sys2Proof.Machine

namespace Sys2Proof.Machine

/-! ### O32: distinct words give distinct outputs -/

theorem two_le_max_expField {h : Word16} (he : 2 ≤ max (expField h).toNat 1) : expField h ≠ 0 := by
  intro h0
  rw [h0] at he
  exact absurd he (by decide)

/-- A value whose scale is not the least has at least 12 bits, so it is at another scale no significand (R64). -/
theorem not_scale_lt_of_value_eq {h h' : Word16}
    (hv : significand h * outputScale h = significand h' * outputScale h') :
    ¬ max (expField h).toNat 1 < max (expField h').toNat 1 := by
  intro hlt
  obtain ⟨d, hd⟩ := Nat.exists_eq_add_of_lt hlt
  have hbands := significand_normalized_bands (two_le_max_expField (by omega : 2 ≤ max (expField h').toNat 1))
  have hbounds := significand_bounds h
  have hscale : outputScale h' = outputScale h * 2 ^ (d + 1) := by
    rw [outputScale, outputScale, ← two_zpow_add_natCast, hd]
    congr 1
    push_cast
    ring
  have hrat : (significand h : ℚ) = significand h' * 2 ^ (d + 1) := by
    rw [hscale] at hv
    exact mul_right_cancel₀ (outputScale_pos h).ne' (by linear_combination hv)
  have hint : significand h = significand h' * 2 * 2 ^ d := by
    rw [mul_assoc, ← pow_succ']; exact_mod_cast hrat
  have hpow : (1 : ℤ) ≤ 2 ^ d := one_le_pow₀ (by norm_num)
  rcases hbands with ⟨hlo, hhi⟩ | ⟨hlo, hhi⟩
  · nlinarith
  · nlinarith

/-- Equal values have equal scales and so equal significands. -/
theorem significand_and_scale_of_value_eq {h h' : Word16}
    (hv : significand h * outputScale h = significand h' * outputScale h') :
    significand h = significand h' ∧ max (expField h).toNat 1 = max (expField h').toNat 1 := by
  have hmax : max (expField h).toNat 1 = max (expField h').toNat 1 :=
    le_antisymm (not_lt.mp (not_scale_lt_of_value_eq hv.symm)) (not_lt.mp (not_scale_lt_of_value_eq hv))
  have hscale : outputScale h = outputScale h' := by rw [outputScale, hmax, outputScale]
  rw [hscale] at hv
  exact ⟨by exact_mod_cast mul_right_cancel₀ (outputScale_pos h').ne' hv, hmax⟩

/-- The significand tells the two regimes apart, and then the exponent. -/
theorem expField_eq_of_significand {h h' : Word16} (hv : significand h = significand h')
    (hmax : max (expField h).toNat 1 = max (expField h').toNat 1) : expField h = expField h' := by
  by_cases he : expField h = 0 <;> by_cases he' : expField h' = 0
  · rw [he, he']
  · have hsub := significand_subnormal_bounds he
    have hnorm := significand_normalized_bands he'
    omega
  · have hsub := significand_subnormal_bounds he'
    have hnorm := significand_normalized_bands he
    omega
  · have hone := one_le_expField_of_normalized he
    have hone' := one_le_expField_of_normalized he'
    exact BitVec.eq_of_toNat_eq (by omega)

/-- With the exponent known the significand gives back the sign and the mantissa (R34, R35). -/
theorem eq_of_significand {h h' : Word16} (he : expField h = expField h') (hv : significand h = significand h') :
    h = h' := by
  have hm := (mantField h).isLt
  have hm' := (mantField h').isLt
  have hfields : signField h = signField h' ∧ (mantField h).toNat = (mantField h').toNat := by
    by_cases h0 : expField h = 0
    · rw [significand_of_subnormal h0, significand_of_subnormal (he ▸ h0)] at hv
      revert hv
      cases signField h <;> cases signField h' <;> simp <;> omega
    · rw [significand_of_normalized h0, significand_of_normalized (he ▸ h0)] at hv
      revert hv
      cases signField h <;> cases signField h' <;> simp <;> omega
  rw [← inputWord_fields h, ← inputWord_fields h', he, hfields.1, BitVec.eq_of_toNat_eq hfields.2]

/-- Settles O32: the output has the word's exact value, and no two words have one value. -/
theorem distinctInputsGiveDistinctOutputs : Obligations.DistinctInputsGiveDistinctOutputs := by
  intro h h' hout
  have hvalue : significand h * outputScale h = significand h' * outputScale h' := by
    rw [← realOf_eq_some_iff, hout, realOf_eq_some_iff]
  obtain ⟨hv, hmax⟩ := significand_and_scale_of_value_eq hvalue
  exact eq_of_significand (expField_eq_of_significand hv hmax) hv

/-! ### O34, O35: complementation -/

/-- Flipping bit 31 of an output pattern negates its sign field alone (R39). -/
theorem outWord_xor_signBit (s : Bool) (e : BitVec 8) (f : BitVec 23) :
    outWord s e f ^^^ 0x80000000#32 = outWord (!s) e f := by
  have hbit : ∀ i < 32, (0x80000000#32).getLsbD i = decide (i = 31) := by decide
  apply BitVec.eq_of_getLsbD_eq
  intro i hi
  rw [BitVec.getLsbD_xor, hbit i hi, outWord_getLsbD, outWord_getLsbD]
  grind

/-- Words of opposite sign whose magnitudes come to one exponent and one fraction have opposite outputs. -/
theorem hsnrToF32_eq_xor_of_opposite {h h' : Word16} (hz : h ≠ 0x0000#16) (hz' : h' ≠ 0x0000#16)
    (hs : signField h' = !signField h) (hE : outputExponent h' = outputExponent h)
    (hf : placedFraction (significand h').natAbs = placedFraction (significand h).natAbs) :
    hsnrToF32 h' = hsnrToF32 h ^^^ 0x80000000#32 := by
  rw [hsnrToF32_eq_outWord hz, hsnrToF32_eq_outWord hz', outWord_xor_signBit, hs, hE, hf]

/-- Negating the mantissa field and setting the sign negates the significand in both regimes (R68, R69). -/
theorem significand_neg_word (e : BitVec 4) {m : Mantissa} (hm : m ≠ 0) :
    significand (inputWord e true (-m)) = -significand (inputWord e false m) := by
  have hlt := m.isLt
  have hpos : m.toNat ≠ 0 := by bv_omega
  have hneg : (-m).toNat = 2048 - m.toNat := by rw [BitVec.toNat_neg]; omega
  by_cases he : e = 0#4
  · subst he
    rw [significand_subNeg, significand_subPos, hneg]
    omega
  · rw [significand_normNeg he, significand_normPos he, hneg]
    omega

theorem hsnrToF32_neg_word (e : BitVec 4) {m : Mantissa} (hm : m ≠ 0) :
    hsnrToF32 (inputWord e true (-m)) = hsnrToF32 (inputWord e false m) ^^^ 0x80000000#32 := by
  have habs : (significand (inputWord e true (-m))).natAbs = (significand (inputWord e false m)).natAbs := by
    rw [significand_neg_word e hm, Int.natAbs_neg]
  refine hsnrToF32_eq_xor_of_opposite (inputWord_ne_zero_of_mant e false hm) (inputWord_true_ne_zero e _) ?_ ?_ ?_
  · simp
  · simp [outputExponent, habs]
  · rw [habs]

/-- At `m = 0` the opposite of exponent `e` is the most negative word of exponent `e - 1` (R69, conflict C5). -/
theorem hsnrToF32_neg_power {e : BitVec 4} (he : e ≠ 0) :
    hsnrToF32 (inputWord (e - 1) true 0) = hsnrToF32 (inputWord e false 0) ^^^ 0x80000000#32 := by
  by_cases h1 : e = 1
  · subst h1; decide
  · have hlt := e.isLt
    have hpred : e - 1 ≠ 0 := by bv_omega
    have hE : (e - 1).toNat + 114 = e.toNat + 113 := by bv_omega
    rw [hsnrToF32_normNeg hpred, if_pos rfl, hsnrToF32_normPos he, outWord_xor_signBit, hE]
    rfl

/-- The words `j` of R68 are the positive subnormal ones, and their opposites the negative ones of the opposite
mantissa. -/
theorem subnormal_word_and_opposite {j : Word16} (hlo : 1 ≤ j.toNat) (hhi : j.toNat ≤ 0x7FF) :
    ∃ m : Mantissa, m ≠ 0 ∧ j = inputWord 0#4 false m ∧ -j &&& 0x0FFF#16 = inputWord 0#4 true (-m) := by
  obtain ⟨m, hm⟩ := exists_mantissa (n := j.toNat) (by omega)
  refine ⟨m, by rintro rfl; exact absurd hm (by simp; omega), ?_, ?_⟩
  · apply BitVec.eq_of_toNat_eq
    simp [inputWord_toNat, hm]
  · have hmask : (0x0FFF#16).toNat = 2 ^ 12 - 1 := rfl
    apply BitVec.eq_of_toNat_eq
    rw [inputWord_toNat, BitVec.toNat_and, hmask, Nat.and_two_pow_sub_one_eq_mod, BitVec.toNat_neg, BitVec.toNat_neg,
      hm]
    simp
    omega

/-- Settles O34: a subnormal word and its opposite have opposite significands; at `j = 0` both words are the zero word. -/
theorem subnormalComplementation : Obligations.SubnormalComplementation := by
  refine ⟨fun j hlo hhi => ?_, rfl, rfl, by decide⟩
  obtain ⟨m, hm, hj, hneg⟩ := subnormal_word_and_opposite hlo hhi
  rw [hneg, hj, hsnrToF32_neg_word 0#4 hm]

/-- An exponent ORed onto a subnormal word fills its exponent field. -/
theorem inputWord_or_exponent (e : BitVec 4) (s : Bool) (m : Mantissa) :
    inputWord 0#4 s m ||| inputWord e false 0 = inputWord e s m := by
  apply BitVec.eq_of_getLsbD_eq
  intro i hi
  simp only [BitVec.getLsbD_or, inputWord_getLsbD]
  split
  · simp
  · split <;> simp

/-- The term `E` of R69 is the positive word of exponent `e` with a clear mantissa. -/
theorem shifted_exponent_eq (e : BitVec 4) : e.setWidth 16 <<< 12 = inputWord e false 0 := by
  revert e; decide

theorem opposite_power_word {e : BitVec 4} (he : e ≠ 0) :
    (inputWord e false 0 - 0x1000#16) ||| 0x0800#16 = inputWord (e - 1) true 0 := by
  revert e; decide

theorem inputWord_or_signBit (e : BitVec 4) : inputWord e false 0 ||| 0x0800#16 = inputWord e true 0 := by
  revert e; decide

theorem next_power_word {e : BitVec 4} (he : e.toNat ≤ 14) :
    inputWord e false 0 + 0x1000#16 = inputWord (e + 1) false 0 := by
  revert e; decide

/-- Settles O35: in a regime the significands are opposite, and at the seam `-4096` at `e` is `-2048` at `e + 1`; the
counterpart of 0xF800 would be `+4.0`. -/
theorem normalizedComplementation : Obligations.NormalizedComplementation := by
  refine ⟨fun e he => ?_, hsnrToF32_ne_four⟩
  rw [shifted_exponent_eq]
  refine ⟨fun j hlo hhi => ?regime, ?power, fun htop => ?next⟩
  case regime =>
    obtain ⟨m, hm, hj, hneg⟩ := subnormal_word_and_opposite hlo hhi
    rw [hneg, hj, inputWord_or_exponent, inputWord_or_exponent, hsnrToF32_neg_word e hm]
  case power => rw [opposite_power_word he, hsnrToF32_neg_power he]
  case next =>
    have hsucc : e + 1 ≠ 0 := by bv_omega
    rw [inputWord_or_signBit, next_power_word htop, ← hsnrToF32_neg_power hsucc, BitVec.add_sub_cancel]

end Sys2Proof.Machine

namespace Sys2Proof

/-! ### O7: an input with a pin that is not two-valued (R89) -/

/-- The port carries a word exactly when every pin is two-valued. -/
theorem HsnrPort.word?_isSome (p : HsnrPort) :
    p.word?.isSome = true ↔ ∀ i : Fin 16, p.pins[i] = .low ∨ p.pins[i] = .high := by
  have hpins : (∀ q ∈ p.pins.toList, q = .low ∨ q = .high) ↔ ∀ i : Fin 16, p.pins[i] = .low ∨ p.pins[i] = .high := by
    rw [List.forall_mem_iff_forall_getElem]
    simp [Fin.forall_iff]
  simpa only [HsnrPort.word?, Option.isSome_map, pinsValue?_isSome, Pin.bit?_isSome] using hpins

/-- A pin that is neither low nor high is one of the X and Z of R89. -/
theorem Pin.not_low_or_high_iff (p : Pin) : ¬ (p = .low ∨ p = .high) ↔ p = .unknown ∨ p = .floating := by
  cases p <;> decide

/-- The port carries no word exactly when some pin is unknown or floating. -/
theorem HsnrPort.word?_eq_none_iff (p : HsnrPort) :
    p.word? = none ↔ ∃ i : Fin 16, p.pins[i] = .unknown ∨ p.pins[i] = .floating := by
  simp only [← Option.not_isSome_iff_eq_none, HsnrPort.word?_isSome, not_forall, Pin.not_low_or_high_iff]

end Sys2Proof

namespace Sys2Proof.Machine

/-- A step refuses its input exactly when the port presented carries no word. -/
theorem step_refused_iff (s : State) :
    step s = .refused .nonTwoValuedInput ↔ s.presentNext.hsnrIn.word? = none := by
  refine ⟨fun hst => (step_refused_cases hst).2, fun hw => ?_⟩
  rw [step, decodePort, hw]

/-- Settles O7: the port carries no word exactly when some pin is unknown or floating, and then the step refuses;
a port that carries a word has it evaluated. -/
theorem nonTwoValuedInputIsRefused : Obligations.NonTwoValuedInputIsRefused := by
  intro s
  refine ⟨(step_refused_iff s).trans (HsnrPort.word?_eq_none_iff _), fun hpins => ?safe⟩
  case safe =>
    obtain ⟨h, hw⟩ := Option.isSome_iff_exists.mp ((HsnrPort.word?_isSome _).mpr hpins)
    exact ⟨_, step_of_word hw⟩

end Sys2Proof.Machine

namespace Sys2Proof.Machine

/-! ### O38: the output is settled at power-up and after every step (R91) -/

/-- Evaluating the word on the port settles the output. -/
theorem State.settled_evaluate {s : State} {h : Word16} (hw : s.hsnrIn.word? = some h) : Settled (s.evaluate h) := by
  rw [Settled, State.evaluate_hsnrIn, State.evaluate_f32Out, hw, Option.map_some]

/-- A step that answers a next state has evaluated the word it presented, whatever the output was before. -/
theorem settled_of_step {s t : State} (hst : step s = .next t) : Settled t := by
  obtain ⟨h, hw, rfl⟩ := step_next_cases hst
  rw [encode_decode]
  exact State.settled_evaluate hw

/-- A word the host puts first is the one the next step evaluates. -/
theorem step_enqueueFirst_ofWord (s : State) (w : Word16) :
    step (s.enqueueFirst (HsnrPort.ofWord w)) = .next ({ s with hsnrIn := HsnrPort.ofWord w }.evaluate w) := by
  have hw : (s.enqueueFirst (HsnrPort.ofWord w)).presentNext.hsnrIn.word? = some w := by
    rw [State.presentNext_enqueueFirst, HsnrPort.word?_ofWord]
  rw [step_of_word hw, State.presentNext_enqueueFirst]

/-- Settles O38: the zero word at power-up shows +0, a step leaves DECODE of the word it read, and so does the first. -/
theorem everyStepSettlesTheOutput : Obligations.EveryStepSettlesTheOutput := by
  refine ⟨?powerUp, fun _ _ => settled_of_step, fun w => ⟨_, step_enqueueFirst_ofWord State.reset w, ?first⟩⟩
  case powerUp => decide
  case first => exact State.evaluate_f32Out w _

end Sys2Proof.Machine

/-! PROOFS for the remaining statements (O1 to O6, O8 to O10, O16, O36, O39 to O45): the decoder against the encoder and
the opcode table, the pins of the port, one step and a run of steps, and several instances side by side. -/

namespace Sys2Proof

/-! ### O2, O3: decoder and encoder -/

theorem Instr.eq_of_class_normPos {i : Instr} (hi : i.inputClass = .normPos) :
    ∃ ec ∈ Machine.normPosCtors, i = ec.2 i.operand := by
  cases i <;> simp [Instr.inputClass, Instr.operand, Machine.normPosCtors] at hi ⊢

theorem Instr.eq_of_class_normNeg {i : Instr} (hi : i.inputClass = .normNeg) :
    ∃ ec ∈ Machine.normNegCtors, i = ec.2 i.operand := by
  cases i <;> simp [Instr.inputClass, Instr.operand, Machine.normNegCtors] at hi ⊢

/-- Every instruction but ZERO and SUB_POS is the row of one exponent and one sign (R36). -/
theorem Instr.row_cases (i : Instr) :
    i = .zero ∨ (∃ m, i = .subPos m) ∨ ∃ e s c m, IsRow e s c ∧ i = c m := by
  cases hi : i.inputClass with
  | zero => exact .inl (by cases i <;> cases hi; rfl)
  | subPos => exact .inr (.inl ⟨i.operand, by cases i <;> cases hi; rfl⟩)
  | subNeg => exact .inr (.inr ⟨_, _, _, i.operand, isRow_subNeg, by cases i <;> cases hi; rfl⟩)
  | normPos =>
    obtain ⟨ec, hec, heq⟩ := Instr.eq_of_class_normPos hi
    exact .inr (.inr ⟨_, _, _, _, (isRow_of_mem_normPosCtors hec).2.2, heq⟩)
  | normNeg =>
    obtain ⟨ec, hec, heq⟩ := Instr.eq_of_class_normNeg hi
    exact .inr (.inr ⟨_, _, _, _, (isRow_of_mem_normNegCtors hec).2.2, heq⟩)

/-- Settles O2: each row's decoder arm undoes its encoder; SUB_POS needs its nonzero mantissa. -/
theorem decodeOfEncodeIsTheInstruction : Obligations.DecodeOfEncodeIsTheInstruction := by
  intro i hwf
  obtain rfl | ⟨m, rfl⟩ | ⟨e, s, c, m, hrow, rfl⟩ := i.row_cases
  · rfl
  · have hm : m ≠ 0 := fun h0 => hwf (h0 ▸ rfl)
    rw [encode_eq_inputWord (e := 0#4) (s := false) rfl, Instr.operand, decode_subPos hm]
  · rw [encode_of_isRow hrow, hrow.decode]

theorem decode_ne_zero {h : Word16} (hz : h ≠ 0x0000#16) : decode h ≠ .zero := by
  intro hd
  have henc := encode_decode h
  rw [hd] at henc
  exact hz henc.symm

/-- The term SUB_POS 0 has ZERO's word, so the decoder never gives it (R36). -/
theorem wellFormed_decode (h : Word16) : WellFormed (decode h) := by
  intro hd
  have henc := encode_decode h
  rw [hd] at henc
  have hz : h = 0x0000#16 := henc.symm
  subst hz
  cases hd

/-- Settles O3: R37, with the one ill-formed term excluded by its word. -/
theorem encodeOfDecodeIsTheWord : Obligations.EncodeOfDecodeIsTheWord :=
  fun h => ⟨wellFormed_decode h, encode_decode h⟩

/-! ### O5: the class of a word -/

/-- The class table as a choice: zero word, exponent field, sign (R33, R36). -/
theorem inputClass_decode (h : Word16) :
    (decode h).inputClass
      = if h = 0x0000#16 then .zero
        else if expField h = 0 then (if signField h then .subNeg else .subPos)
        else if signField h then .normNeg else .normPos := by
  by_cases hz : h = 0x0000#16
  · subst hz; rfl
  · simp only [decode, if_neg hz]
    generalize signField h = s
    obtain ⟨e, he, hexp⟩ : ∃ e < 16, expField h = BitVec.ofNat 4 e := ⟨_, (expField h).isLt, by simp⟩
    rw [hexp]
    interval_cases e <;> cases s <;> rfl

/-- Settles O5: the class table's choice, read as five equivalences. -/
theorem classFollowsExponentAndSign : Obligations.ClassFollowsExponentAndSign := by
  intro h
  rw [inputClass_decode]
  by_cases hz : h = 0x0000#16
  · subst hz; decide
  · by_cases he : expField h = 0#4 <;> cases hs : signField h <;> simp [hz, he]

/-! ### O1, O4: the decoder and the opcode table -/

/-- Settles O1: the decoder evaluated on each of the six words. -/
theorem writtenOutWordsDecodeToTheirRows : Obligations.WrittenOutWordsDecodeToTheirRows :=
  ⟨rfl, rfl, rfl, rfl, rfl, rfl⟩

/-- The word of every instruction meets the mask and match of its row. -/
theorem row_meets_encode (i : Instr) : i.row.meets (encode i) = true := by
  have hstatement : Laws.RowMatch.Statement i := by
    obtain rfl | ⟨m, rfl⟩ | ⟨e, s, c, m, hrow, rfl⟩ := i.row_cases
    · exact Laws.RowMatch.zero
    · exact Laws.RowMatch.subPos m
    · exact Laws.RowMatch.of_fields e s (hrow.mask m) (hrow.matchBits m)
  exact beq_iff_eq.mpr hstatement

theorem row_meets (h : Word16) : (decode h).row.meets h = true := by
  simpa only [encode_decode] using row_meets_encode (decode h)

theorem zero_row_meets_iff (h : Word16) : Instr.zero.row.meets h = true ↔ h = 0x0000#16 := by
  have hmask : Instr.zero.row.mask = BitVec.allOnes 16 := rfl
  rw [OpcodeRow.meets, hmask, BitVec.and_allOnes, beq_iff_eq]
  rfl

/-- Past ZERO the rows fix bits 15..11 alone. -/
theorem mask_of_mem_tail : ∀ r ∈ opcodeTable.tail, r.mask = 0xF800#16 := by decide

/-- Past ZERO no two rows have the same match bits. -/
theorem nodup_matchBits_tail : (opcodeTable.tail.map OpcodeRow.matchBits).Nodup := by decide

theorem row_mem_tail {i : Instr} (hi : i ≠ .zero) : i.row ∈ opcodeTable.tail := by
  cases i <;> simp [opcodeTable, subnormalRows, normPosRows, normNegRows, Instr.row] at hi ⊢

/-- Two rows past ZERO that a word meets are one row. -/
theorem row_eq_of_meets {r r' : OpcodeRow} {h : Word16} (hr : r ∈ opcodeTable.tail) (hr' : r' ∈ opcodeTable.tail)
    (hm : r.meets h = true) (hm' : r'.meets h = true) : r = r' := by
  rw [OpcodeRow.meets, beq_iff_eq, mask_of_mem_tail r hr] at hm
  rw [OpcodeRow.meets, beq_iff_eq, mask_of_mem_tail r' hr'] at hm'
  exact List.inj_on_of_nodup_map nodup_matchBits_tail hr hr' (hm.symm.trans hm')

/-- Past ZERO a nonzero word meets the row of its instruction and no other. -/
theorem filter_meets_tail {h : Word16} (hz : h ≠ 0x0000#16) :
    opcodeTable.tail.filter (·.meets h) = [(decode h).row] := by
  have hmem := row_mem_tail (decode_ne_zero hz)
  have hsame : ∀ r ∈ opcodeTable.tail, r.meets h = (r == (decode h).row) := by
    intro r hr
    rw [Bool.eq_iff_iff, beq_iff_eq]
    exact ⟨fun hm => row_eq_of_meets hr hmem hm (row_meets h), fun heq => heq ▸ row_meets h⟩
  rw [List.filter_congr hsame, List.filter_beq,
    List.count_eq_one_of_mem (List.Nodup.of_map _ nodup_matchBits_tail) hmem, List.replicate_one]

/-- Settles O4: the zero word stops at ZERO, the first row; any other word passes it and meets one row of the rest. -/
theorem decodeIsTheFirstMatchingTableRow : Obligations.DecodeIsTheFirstMatchingTableRow := by
  refine ⟨fun h => ?first, fun h => filter_meets_tail⟩
  have htable : opcodeTable = Instr.zero.row :: opcodeTable.tail := rfl
  by_cases hz : h = 0x0000#16
  · subst hz; rfl
  · rw [htable, List.find?_cons_of_neg (by rwa [zero_row_meets_iff]), ← List.head?_filter, filter_meets_tail hz]
    rfl

/-! ### O6: the pins of the port -/

theorem HsnrPort.pins_ofWord (h : Word16) (i : Fin 16) : (HsnrPort.ofWord h).pins[i] = bitPin h i := by
  fin_cases i <;> rfl

theorem HsnrPort.eq_ofWord_iff (p : HsnrPort) (h : Word16) :
    p = HsnrPort.ofWord h ↔ ∀ i : Fin 16, p.pins[i] = bitPin h i := by
  constructor
  · rintro rfl
    exact HsnrPort.pins_ofWord h
  · intro hpins
    have hvec : p.pins = (HsnrPort.ofWord h).pins :=
      Vector.ext fun i hi => (hpins ⟨i, hi⟩).trans (HsnrPort.pins_ofWord h ⟨i, hi⟩).symm
    cases p; cases hvec; rfl

/-- The word whose bits are where the port's pins are high. -/
def HsnrPort.highBits (p : HsnrPort) : Word16 := BitVec.ofFnLE fun i : Fin 16 => decide (p.pins[i] = .high)

/-- A port with only two-valued pins is the port of the word of its high pins (R23). -/
theorem HsnrPort.eq_ofWord_highBits {p : HsnrPort} (hpins : ∀ i : Fin 16, p.pins[i] = .low ∨ p.pins[i] = .high) :
    p = HsnrPort.ofWord p.highBits := by
  rw [HsnrPort.eq_ofWord_iff]
  intro i
  rw [bitPin, HsnrPort.highBits, BitVec.getLsbD_ofFnLE, dif_pos i.isLt]
  rcases hpins i with hlow | hhigh
  · simp [hlow]
  · simp [hhigh]

/-- The port reads as a word exactly when it is the port the host makes of that word. -/
theorem HsnrPort.word?_eq_some_iff (p : HsnrPort) (h : Word16) : p.word? = some h ↔ p = HsnrPort.ofWord h := by
  constructor
  · intro hw
    have hp := HsnrPort.eq_ofWord_highBits ((HsnrPort.word?_isSome p).mp (hw ▸ rfl))
    rw [hp, HsnrPort.word?_ofWord, Option.some_inj] at hw
    rw [← hw]; exact hp
  · rintro rfl
    exact HsnrPort.word?_ofWord h

/-- Settles O6: a port that reads as `h` is the port of `h`, whose pin `i` shows bit `i`. -/
theorem pinCarriesItsBit : Obligations.PinCarriesItsBit :=
  fun p h => (p.word?_eq_some_iff h).trans (p.eq_ofWord_iff h)

end Sys2Proof

namespace Sys2Proof.Machine

/-! ### O8, O9, O10: one instruction and one step -/

theorem State.presentNext_of_pending_cons {s : State} {p : HsnrPort} {ps : List HsnrPort} (hs : s.pending = p :: ps) :
    s.presentNext = { s with hsnrIn := p, pending := ps } := by
  unfold State.presentNext; rw [hs]

/-- Settles O8: the evaluation a step makes is the decoded instruction's. -/
theorem stepRunsTheDecodedWord : Obligations.StepRunsTheDecodedWord := by
  refine ⟨fun s h hw => ?step, State.presentNext_of_pending_nil, fun _ _ _ => State.presentNext_of_pending_cons⟩
  rw [step_of_word hw, exec_eq_evaluate, encode_decode]

/-- Settles O9: the table's word of 16 bits is put first in the queue whole. -/
theorem presentedWordIsConverted : Obligations.PresentedWordIsConverted := by
  intro s w hw
  rw [State.withFetchWord, Nat.mod_eq_of_lt hw, step_enqueueFirst_ofWord]
  rfl

/-- Settles O10: an instruction is one evaluation of its own word. -/
theorem instructionChangesOnlyTheOutput : Obligations.InstructionChangesOnlyTheOutput := by
  intro i s
  refine ⟨s.evaluate (encode i), exec_eq_evaluate i s, rfl, rfl, fun s' t' ht' => ?_⟩
  rw [exec_eq_evaluate, Host.Outcome.next.injEq] at ht'
  rw [← ht', State.evaluate_f32Out, State.evaluate_f32Out]

/-! ### O16: the zero bypass -/

theorem signals_back_eq_none_iff (h : Word16) : (signals h).back = none ↔ h = 0x0000#16 := by
  constructor
  · intro hback
    by_contra hz
    rw [signals_back_of_ne_zero hz] at hback
    cases hback
  · rintro rfl
    exact signals_back_zero

/-- Shifting leaves a zero magnitude zero, so the loop never gets past its guard (R44). -/
theorem normalizeLoop_mag4_of_zero (rounds : Nat) {n : Normal} (hn : n.mag4 = 0#32) :
    (normalizeLoop rounds n).mag4 = 0#32 := by
  induction rounds generalizing n with
  | zero => exact hn
  | succ rounds ih =>
    have hguard : n.mag4 &&& leadingBitTestMask = 0#32 := by rw [hn]; rfl
    rw [normalizeLoop_shift hguard]
    exact ih (by rw [hn]; rfl)

/-- Settles O16: the wires past the normalizer exist for the nonzero words alone, and a zero magnitude stays zero. -/
theorem zeroBypassTakesPrecedence : Obligations.ZeroBypassTakesPrecedence := by
  refine ⟨rfl, signals_back_eq_none_iff, fun h b hb => ?packer, rfl, fun rounds exp1 k => ?loop⟩
  case packer => rw [back_eq_some hb]
  case loop =>
    rw [normalizeLoop_mag4_of_zero rounds rfl]
    rfl

/-! ### O36: sums across the seam of the two regimes -/

/-- The subnormal regime and exponent 1 have one scale (R33). -/
theorem realOf_of_exp_le_one {h : Word16} {v : ℤ} (hv : significand h = v) (he : (expField h).toNat ≤ 1) :
    realOf (hsnrToF32 h) = some (v * (2 : ℚ) ^ (-24 : ℤ)) :=
  realOf_of_significand (e := 1) hv (max_eq_right he)

/-- Settles O36: the words have one scale, on which the sums are sums of integers. -/
theorem boundarySumsAreExact : Obligations.BoundarySumsAreExact := by
  refine ⟨_, _, _, _, _, _, realOf_of_exp_le_one (v := 2048) (by decide) (by decide),
    realOf_of_exp_le_one (v := 1) (by decide) (by decide), ?sum,
    realOf_of_exp_le_one (v := 3072) (by decide) (by decide), realOf_of_exp_le_one (v := 1024) (by decide) (by decide),
    ?first, realOf_of_exp_le_one (v := 4095) (by decide) (by decide),
    realOf_of_exp_le_one (v := 2047) (by decide) (by decide), ?second⟩
  case sum =>
    rw [realOf_of_exp_le_one (v := 2049) (by decide) (by decide), ← add_mul]
    norm_num
  case first => norm_num
  case second => norm_num

/-! ### O39, O40, O41: the invariant of a run -/

/-- Settles O39: the output is settled at power-up (R91), and the host's queue is empty. -/
theorem powerUpMeetsRunInv : Obligations.PowerUpMeetsRunInv :=
  ⟨everyStepSettlesTheOutput.1, List.forall_mem_nil _⟩

/-- A step takes at most one input from the queue, so it leaves the host two-valued. -/
theorem hostTwoValued_of_step {s t : State} (hs : HostTwoValued s) (hst : step s = .next t) : HostTwoValued t := by
  obtain ⟨h, -, rfl⟩ := step_next_cases hst
  intro p hp
  rw [State.evaluate_pending, State.presentNext_pending] at hp
  exact hs p (List.mem_of_mem_tail hp)

/-- Settles O40: every step settles the output, and what is still queued was queued before. -/
theorem stepKeepsRunInv : Obligations.StepKeepsRunInv :=
  fun _ _ hs hst => ⟨settled_of_step hst, hostTwoValued_of_step hs.2 hst⟩

/-- The input presented is the oldest of the queue, or the settled one that is held. -/
theorem presentNext_word?_isSome {s : State} (hs : RunInv s) : s.presentNext.hsnrIn.word?.isSome = true := by
  obtain ⟨hsettled, hhost⟩ := hs
  cases hq : s.pending with
  | nil =>
    rw [State.presentNext_of_pending_nil s hq, ← Option.isSome_map (f := hsnrToF32), hsettled]
    rfl
  | cons p ps =>
    rw [State.presentNext_of_pending_cons hq]
    exact hhost p (hq ▸ List.mem_cons_self)

/-- Progress: a state that meets the invariant has a step. -/
theorem safeStep_of_runInv {s : State} (hs : RunInv s) : SafeStep s := by
  obtain ⟨h, hw⟩ := Option.isSome_iff_exists.mp (presentNext_word?_isSome hs)
  exact ⟨_, step_of_word hw⟩

/-- A run of `k + 1` steps whose first step answers `t` is the run of `k` steps from `t`. -/
theorem run_succ_of_step {s t : State} (hst : step s = .next t) (k : Nat) :
    Host.Core.run core (k + 1) s = Host.Core.run core k t := by
  have hcore : core.step s = .next t := hst
  simp only [Host.Core.run, hcore]

/-- Settles O41, by induction on the number of steps: progress gives the next state and O40 its invariant. -/
theorem runWithTwoValuedInputsNeverStops : Obligations.RunWithTwoValuedInputsNeverStops := by
  intro k
  induction k with
  | zero => exact fun s hs => ⟨s, rfl, hs⟩
  | succ k ih =>
    intro s hs
    obtain ⟨t, hst⟩ := safeStep_of_runInv hs
    rw [run_succ_of_step hst]
    exact ih t (stepKeepsRunInv s t hs hst)

/-! ### O42, O43: sequences of words and a held input -/

/-- A step takes the word at the head of the queue, whatever was on the ports. -/
theorem step_of_pending_ofWord (s : State) (w : Word16) (ps : List HsnrPort) :
    step { s with pending := HsnrPort.ofWord w :: ps }
      = .next { hsnrIn := HsnrPort.ofWord w, f32Out := hsnrToF32 w, pending := ps } :=
  step_enqueueFirst_ofWord { s with pending := ps } w

/-- Settles O42, by induction on the words before the last: each takes one step, which drops it from the queue. -/
theorem sequenceLeavesDecodeOfTheLastWord : Obligations.SequenceLeavesDecodeOfTheLastWord := by
  intro s ws w
  induction ws generalizing s with
  | nil => exact run_succ_of_step (step_of_pending_ofWord s w []) 0
  | cons v vs ih =>
    have hstep := step_of_pending_ofWord s v ((vs ++ [w]).map HsnrPort.ofWord)
    exact (run_succ_of_step hstep _).trans (ih { s with hsnrIn := HsnrPort.ofWord v, f32Out := hsnrToF32 v })

/-- Settles O43: the held word is read again, and evaluating it sets the output to what it is. -/
theorem heldInputGivesTheSameOutput : Obligations.HeldInputGivesTheSameOutput := by
  intro s t hq hst
  obtain ⟨h, hw, rfl⟩ := step_next_cases hst
  rw [State.presentNext_of_pending_nil s hq] at hw ⊢
  rw [encode_decode]
  have hheld : (s.evaluate h).presentNext = s.evaluate h := State.presentNext_of_pending_nil _ hq
  rw [step_of_word (h := h) (by rw [hheld]; exact hw), hheld]
  rfl

/-! ### O44: sampling -/

/-- Settles O44: a settled output is DECODE of the word on the input. -/
theorem sampleAfterSettlingReadsDecode : Obligations.SampleAfterSettlingReadsDecode := by
  intro s h stableFor hsettled hw
  rw [Settled, hw, Option.map_some, Option.some_inj] at hsettled
  rw [State.sample, hw, Option.map_some, hsettled]

/-! ### O45: instances side by side -/

/-- An evaluation in a bank that answers a next bank is a step of the entry named, put back in its place (R86). -/
theorem stepInstance_eq_next_iff {n : Nat} {j : Fin n} {b b' : Bank n} :
    stepInstance j b = .next b' ↔ ∃ t, step b[j] = .next t ∧ b' = b.set j t := by
  rw [stepInstance]
  cases hst : step b[j] with
  | next t => simp [eq_comm]
  | fault r => simp
  | refused r => simp

/-- Settles O45: an evaluation writes its own entry alone, and entries at different places are written in either order. -/
theorem instancesAreIndependent : Obligations.InstancesAreIndependent := by
  intro n b b' j hj
  obtain ⟨t, hst, rfl⟩ := stepInstance_eq_next_iff.mp hj
  have hother : ∀ k : Fin n, ∀ u, ∀ i : Fin n, i ≠ k → (b.set k u)[i] = b[i] := fun k u i hik =>
    Vector.getElem_set_ne k.isLt i.isLt (Fin.val_ne_of_ne hik.symm)
  refine ⟨⟨?own, hother j t⟩, fun k d hk hd => ?commute⟩
  case own => rw [hst]; simp
  case commute =>
    obtain ⟨u, hsu, rfl⟩ := stepInstance_eq_next_iff.mp hd
    rw [hother j t k hk] at hsu
    refine ⟨b.set k u, stepInstance_eq_next_iff.mpr ⟨u, hsu, rfl⟩, stepInstance_eq_next_iff.mpr ⟨t, ?_, ?_⟩⟩
    · rw [hother k u j hk.symm, hst]
    · exact Vector.set_comm t u (Fin.val_ne_of_ne hk.symm)

end Sys2Proof.Machine
